-- ==== Sys2Proof/Word.lean ====
section
/-! DEFINITION. The word types of the CORE: bytes, 12-bit addresses, 16-bit instruction words and register numbers. -/

namespace Sys2Proof

/-- A memory byte or the contents of a general register or timer (R21, R60): 8 bits, unsigned (R8). -/
abbrev Byte := BitVec 8

/-- A 12-bit address: the contents of I, PC and a STACK entry (R25, R27, R31), and the field nnn (R82). -/
abbrev Addr := BitVec 12

/-- One instruction word (R80). Bit 0 is the least significant bit (R7). -/
abbrev Word := BitVec 16

/-- The number of a general register V0..VF (R21): the fields x and y name it directly (R82). -/
abbrev Reg := Fin 16

/-- VF, register 15, the block's only flag (R23). It is an ordinary register number. -/
abbrev vF : Reg := 15

end Sys2Proof
end

