-- ==== Sys2Proof/Machine/Flags.lean ====
section
/-! DEFINITION. Every value an instruction writes to VF as a flag (R23), and the 8-bit results beside it (R166 to R173).
The values are computed on naturals and then narrowed (R8). -/

namespace Sys2Proof.Machine

/-- A flag as VF holds it: 1 or 0 (R23). -/
def flagByte (b : Bool) : Byte := if b then 1 else 0

/-- 8xy4 (R166): the exact 9-bit sum. -/
def sumOf (a b : Byte) : Nat := a.toNat + b.toNat
/-- 8xy4 (R166): the carry out of bit 7. -/
def carryFlag (a b : Byte) : Byte := flagByte (decide (sumOf a b > 255))
/-- 8xy4 (R166): the low 8 bits of the sum. -/
def sumByte (a b : Byte) : Byte := BitVec.ofNat 8 (sumOf a b)

/-- 8xy5 (R167): 1 exactly when a > b, strictly; equal operands give 0 (C6). -/
def greaterFlag (a b : Byte) : Byte := flagByte (decide (a.toNat > b.toNat))
/-- 8xy7 (R169): 1 exactly when b >= a: no borrow in b - a. -/
def noBorrowFlag (a b : Byte) : Byte := flagByte (decide (b.toNat ≥ a.toNat))
/-- 8xy5 and 8xy7 (R167, R169): the difference modulo 256. -/
def diffByte (a b : Byte) : Byte := BitVec.ofInt 8 ((a.toNat : Int) - b.toNat)

/-- 8xy6 (R168): the bit 0 that a right shift drops. -/
def lsbFlag (a : Byte) : Byte := a &&& 1
/-- 8xyE (R170): the bit 7 that a left shift drops. -/
def msbFlag (a : Byte) : Byte := (a &&& 0x80) >>> 7
/-- 8xy6 (R168): logical right shift by one. -/
def shrByte (a : Byte) : Byte := a >>> 1
/-- 8xyE (R170): left shift by one, low 8 bits kept. -/
def shlByte (a : Byte) : Byte := a <<< 1

end Sys2Proof.Machine
end

