-- ==== Sys2Proof/Syntax.lean ====
section
/-! DEFINITION. The instruction set: one constructor per row of spec/opcode_table.json, in the table's order (R83). -/

namespace Sys2Proof

/-- The 34 instructions of R83. Each constructor carries exactly the operands its row uses:
`x` and `y` are register numbers, `nn` an unsigned byte, `nnn` an unsigned 12-bit address and
`n` the sprite height (R82). A field that R85 says is ignored (y of SHR and SHL) is no operand (log 20).
An unassigned word is no instruction (R86): the decoder answers `Decoded.nop` (log 21). -/
inductive Instr where
  | cls
  | ret
  | jp      (nnn : Addr)
  | call    (nnn : Addr)
  | seImm   (x : Reg) (nn : Byte)
  | sneImm  (x : Reg) (nn : Byte)
  | seReg   (x y : Reg)
  | ldImm   (x : Reg) (nn : Byte)
  | addImm  (x : Reg) (nn : Byte)
  | ldReg   (x y : Reg)
  | orReg   (x y : Reg)
  | andReg  (x y : Reg)
  | xorReg  (x y : Reg)
  | addReg  (x y : Reg)
  | sub     (x y : Reg)
  | shr     (x : Reg)
  | subn    (x y : Reg)
  | shl     (x : Reg)
  | sneReg  (x y : Reg)
  | ldI     (nnn : Addr)
  | jpV0    (nnn : Addr)
  | rnd     (x : Reg) (nn : Byte)
  | drw     (x y : Reg) (n : Nat)
  | skp     (x : Reg)
  | sknp    (x : Reg)
  | ldVxDt  (x : Reg)
  | ldVxK   (x : Reg)
  | ldDtVx  (x : Reg)
  | ldStVx  (x : Reg)
  | addIVx  (x : Reg)
  | ldFVx   (x : Reg)
  | ldBVx   (x : Reg)
  | ldMemVx (x : Reg)
  | ldVxMem (x : Reg)
  deriving DecidableEq, Repr

end Sys2Proof
end

