-- ==== Sys2Proof/Decode.lean ====
section
/-! DEFINITION. Fields, decoder, encoder and opcode table of the one 16-bit instruction format (R80 to R88, R103, R104). -/

namespace Sys2Proof

/-- `op` = w[15:12], the dispatch selector (R81). -/
def fieldOp (w : Word) : BitVec 4 := w.extractLsb' 12 4
/-- `x` = w[11:8], a register number (R81). -/
def fieldX (w : Word) : Reg := (w.extractLsb' 8 4).toFin
/-- `y` = w[7:4], a register number (R81). -/
def fieldY (w : Word) : Reg := (w.extractLsb' 4 4).toFin
/-- `n` = w[3:0] (R81): a sub-selector, or the sprite height as a count (R82). -/
def fieldN (w : Word) : Nat := (w.extractLsb' 0 4).toNat
/-- `nn` = w[7:0] (R81): an immediate, or a sub-selector of groups E and F. -/
def fieldNN (w : Word) : Byte := w.extractLsb' 0 8
/-- `nnn` = w[11:0], an address (R81). -/
def fieldNNN (w : Word) : Addr := w.extractLsb' 0 12

/-- What a word decodes to: "every word decodes to exactly one of the 34 instructions of R83 or to NOP" (R88).
`nop` names the unassigned word. -/
inductive Decoded where
  | instr (i : Instr)
  | nop (w : Word)
  deriving DecidableEq, Repr

/-- Group 0 (R104): matched on the whole word (D7, log 13). -/
def decode0 (w : Word) : Decoded :=
  if w = 0x00E0 then .instr .cls
  else if w = 0x00EE then .instr .ret
  else .nop w

/-- Group 5 (R104): only n = 0 is assigned (D7, log 13). -/
def decode5 (w : Word) : Decoded :=
  if fieldN w = 0 then .instr (.seReg (fieldX w) (fieldY w)) else .nop w

/-- Group 8 (R104): the register group, selected by n. -/
def decode8 (w : Word) : Decoded :=
  match fieldN w with
  | 0x0 => .instr (.ldReg (fieldX w) (fieldY w))
  | 0x1 => .instr (.orReg (fieldX w) (fieldY w))
  | 0x2 => .instr (.andReg (fieldX w) (fieldY w))
  | 0x3 => .instr (.xorReg (fieldX w) (fieldY w))
  | 0x4 => .instr (.addReg (fieldX w) (fieldY w))
  | 0x5 => .instr (.sub (fieldX w) (fieldY w))
  | 0x6 => .instr (.shr (fieldX w))
  | 0x7 => .instr (.subn (fieldX w) (fieldY w))
  | 0xE => .instr (.shl (fieldX w))
  | _ => .nop w

/-- Group 9 (R104): only n = 0 is assigned (D7, log 13). -/
def decode9 (w : Word) : Decoded :=
  if fieldN w = 0 then .instr (.sneReg (fieldX w) (fieldY w)) else .nop w

/-- Group E (R104): the key tests, selected by nn. -/
def decodeE (w : Word) : Decoded :=
  if fieldNN w = 0x9E then .instr (.skp (fieldX w))
  else if fieldNN w = 0xA1 then .instr (.sknp (fieldX w))
  else .nop w

/-- Group F (R104), selected by nn. -/
def decodeF (w : Word) : Decoded :=
  match (fieldNN w).toNat with
  | 0x07 => .instr (.ldVxDt (fieldX w))
  | 0x0A => .instr (.ldVxK (fieldX w))
  | 0x15 => .instr (.ldDtVx (fieldX w))
  | 0x18 => .instr (.ldStVx (fieldX w))
  | 0x1E => .instr (.addIVx (fieldX w))
  | 0x29 => .instr (.ldFVx (fieldX w))
  | 0x33 => .instr (.ldBVx (fieldX w))
  | 0x55 => .instr (.ldMemVx (fieldX w))
  | 0x65 => .instr (.ldVxMem (fieldX w))
  | _ => .nop w

/-- The decoder: R104's routing on the high nibble. It reads the word alone (R88). -/
def decode (w : Word) : Decoded :=
  match (fieldOp w).toNat with
  | 0x0 => decode0 w
  | 0x1 => .instr (.jp (fieldNNN w))
  | 0x2 => .instr (.call (fieldNNN w))
  | 0x3 => .instr (.seImm (fieldX w) (fieldNN w))
  | 0x4 => .instr (.sneImm (fieldX w) (fieldNN w))
  | 0x5 => decode5 w
  | 0x6 => .instr (.ldImm (fieldX w) (fieldNN w))
  | 0x7 => .instr (.addImm (fieldX w) (fieldNN w))
  | 0x8 => decode8 w
  | 0x9 => decode9 w
  | 0xA => .instr (.ldI (fieldNNN w))
  | 0xB => .instr (.jpV0 (fieldNNN w))
  | 0xC => .instr (.rnd (fieldX w) (fieldNN w))
  | 0xD => .instr (.drw (fieldX w) (fieldY w) (fieldN w))
  | 0xE => decodeE w
  | _ => decodeF w

/-- What a sequence of bytes decodes to: one word and the bytes after it, or the named rejection
`truncated` (fewer than the "exactly 2 bytes" a decoder consumes, R80). -/
inductive BytesDecoded where
  | word (d : Decoded) (rest : List Byte)
  | truncated
  deriving DecidableEq, Repr

/-- The word two consecutive bytes form: big-endian, the byte at the lower address is w[15:8] (R63). -/
def wordOfBytes (hi lo : Byte) : Word := hi ++ lo

/-- The high byte of a word, stored at the lower address (R63). -/
def highByte (w : Word) : Byte := w.extractLsb' 8 8
/-- The low byte of a word, stored at the higher address (R63). -/
def lowByte (w : Word) : Byte := w.extractLsb' 0 8

/-- The decoder on bytes in address order (R63, R80). -/
def decodeBytes : List Byte → BytesDecoded
  | hi :: lo :: rest => .word (decode (wordOfBytes hi lo)) rest
  | _ => .truncated

/-- The instruction the decoder reads from an instruction whose bits are w, numbered as the opcode table
numbers them, laid out as the hardware stores it: high byte first (R63). -/
def decodeTableWord (nbits w : Nat) : Option Instr :=
  let word : Word := BitVec.ofNat 16 (w % 2 ^ nbits)
  match decodeBytes [highByte word, lowByte word] with
  | .word (.instr i) _ => some i
  | .word (.nop _) _ => none
  | .truncated => none

/-! The encoder, from the same layout (R81, R89): the selector with its fields filled in. -/

/-- The 4-bit field that names a register (R82). -/
def nibbleOfReg (x : Reg) : BitVec 4 := BitVec.ofFin x

/-- A word of the form `op nnn`. -/
def encodeNNN (op : BitVec 4) (nnn : Addr) : Word := op ++ nnn
/-- A word of the form `op x nn`. -/
def encodeXNN (op : BitVec 4) (x : Reg) (nn : Byte) : Word := op ++ (nibbleOfReg x ++ nn)
/-- A word of the form `op x y n`. -/
def encodeXYN (op : BitVec 4) (x y : Reg) (n : BitVec 4) : Word :=
  op ++ (nibbleOfReg x ++ (nibbleOfReg y ++ n))

/-- The word of a well-formed instruction (R83). The ignored field y of SHR and SHL is written 0 (log 20). -/
def encode : Instr → Word
  | .cls => 0x00E0
  | .ret => 0x00EE
  | .jp nnn => encodeNNN 0x1 nnn
  | .call nnn => encodeNNN 0x2 nnn
  | .seImm x nn => encodeXNN 0x3 x nn
  | .sneImm x nn => encodeXNN 0x4 x nn
  | .seReg x y => encodeXYN 0x5 x y 0x0
  | .ldImm x nn => encodeXNN 0x6 x nn
  | .addImm x nn => encodeXNN 0x7 x nn
  | .ldReg x y => encodeXYN 0x8 x y 0x0
  | .orReg x y => encodeXYN 0x8 x y 0x1
  | .andReg x y => encodeXYN 0x8 x y 0x2
  | .xorReg x y => encodeXYN 0x8 x y 0x3
  | .addReg x y => encodeXYN 0x8 x y 0x4
  | .sub x y => encodeXYN 0x8 x y 0x5
  | .shr x => encodeXYN 0x8 x 0 0x6
  | .subn x y => encodeXYN 0x8 x y 0x7
  | .shl x => encodeXYN 0x8 x 0 0xE
  | .sneReg x y => encodeXYN 0x9 x y 0x0
  | .ldI nnn => encodeNNN 0xA nnn
  | .jpV0 nnn => encodeNNN 0xB nnn
  | .rnd x nn => encodeXNN 0xC x nn
  | .drw x y n => encodeXYN 0xD x y (BitVec.ofNat 4 n)
  | .skp x => encodeXNN 0xE x 0x9E
  | .sknp x => encodeXNN 0xE x 0xA1
  | .ldVxDt x => encodeXNN 0xF x 0x07
  | .ldVxK x => encodeXNN 0xF x 0x0A
  | .ldDtVx x => encodeXNN 0xF x 0x15
  | .ldStVx x => encodeXNN 0xF x 0x18
  | .addIVx x => encodeXNN 0xF x 0x1E
  | .ldFVx x => encodeXNN 0xF x 0x29
  | .ldBVx x => encodeXNN 0xF x 0x33
  | .ldMemVx x => encodeXNN 0xF x 0x55
  | .ldVxMem x => encodeXNN 0xF x 0x65

/-- The bytes of an instruction in address order (R63). -/
def encodeBytes (i : Instr) : List Byte := [highByte (encode i), lowByte (encode i)]

/-! The opcode map as R83 tables it, beside the routing above: a word selects the row with `w &&& mask = pattern`. -/

/-- One row of R83: its number, its match and its mask. -/
structure OpcodeRow where
  num     : Nat
  pattern : Word
  mask    : Word
  deriving DecidableEq, Repr

/-- Rows 1 to 9 of R83. -/
def opcodeRowsA : List OpcodeRow :=
  [⟨1, 0x00E0, 0xFFFF⟩, ⟨2, 0x00EE, 0xFFFF⟩, ⟨3, 0x1000, 0xF000⟩, ⟨4, 0x2000, 0xF000⟩, ⟨5, 0x3000, 0xF000⟩,
   ⟨6, 0x4000, 0xF000⟩, ⟨7, 0x5000, 0xF00F⟩, ⟨8, 0x6000, 0xF000⟩, ⟨9, 0x7000, 0xF000⟩]

/-- Rows 10 to 19 of R83. -/
def opcodeRowsB : List OpcodeRow :=
  [⟨10, 0x8000, 0xF00F⟩, ⟨11, 0x8001, 0xF00F⟩, ⟨12, 0x8002, 0xF00F⟩, ⟨13, 0x8003, 0xF00F⟩, ⟨14, 0x8004, 0xF00F⟩,
   ⟨15, 0x8005, 0xF00F⟩, ⟨16, 0x8006, 0xF00F⟩, ⟨17, 0x8007, 0xF00F⟩, ⟨18, 0x800E, 0xF00F⟩, ⟨19, 0x9000, 0xF00F⟩]

/-- Rows 20 to 34 of R83. -/
def opcodeRowsC : List OpcodeRow :=
  [⟨20, 0xA000, 0xF000⟩, ⟨21, 0xB000, 0xF000⟩, ⟨22, 0xC000, 0xF000⟩, ⟨23, 0xD000, 0xF000⟩, ⟨24, 0xE09E, 0xF0FF⟩,
   ⟨25, 0xE0A1, 0xF0FF⟩, ⟨26, 0xF007, 0xF0FF⟩, ⟨27, 0xF00A, 0xF0FF⟩, ⟨28, 0xF015, 0xF0FF⟩, ⟨29, 0xF018, 0xF0FF⟩,
   ⟨30, 0xF01E, 0xF0FF⟩, ⟨31, 0xF029, 0xF0FF⟩, ⟨32, 0xF033, 0xF0FF⟩, ⟨33, 0xF055, 0xF0FF⟩, ⟨34, 0xF065, 0xF0FF⟩]

/-- R83's table. -/
def opcodeTable : List OpcodeRow := opcodeRowsA ++ opcodeRowsB ++ opcodeRowsC

/-- A word selects a row (R83). -/
def OpcodeRow.selects (r : OpcodeRow) (w : Word) : Bool := w &&& r.mask == r.pattern

/-- The row number of an instruction in R83. -/
def Instr.row : Instr → Nat
  | .cls => 1
  | .ret => 2
  | .jp _ => 3
  | .call _ => 4
  | .seImm _ _ => 5
  | .sneImm _ _ => 6
  | .seReg _ _ => 7
  | .ldImm _ _ => 8
  | .addImm _ _ => 9
  | .ldReg _ _ => 10
  | .orReg _ _ => 11
  | .andReg _ _ => 12
  | .xorReg _ _ => 13
  | .addReg _ _ => 14
  | .sub _ _ => 15
  | .shr _ => 16
  | .subn _ _ => 17
  | .shl _ => 18
  | .sneReg _ _ => 19
  | .ldI _ => 20
  | .jpV0 _ => 21
  | .rnd _ _ => 22
  | .drw _ _ _ => 23
  | .skp _ => 24
  | .sknp _ => 25
  | .ldVxDt _ => 26
  | .ldVxK _ => 27
  | .ldDtVx _ => 28
  | .ldStVx _ => 29
  | .addIVx _ => 30
  | .ldFVx _ => 31
  | .ldBVx _ => 32
  | .ldMemVx _ => 33
  | .ldVxMem _ => 34

/-- The row number a decoded word belongs to; none for a NOP word. -/
def Decoded.row : Decoded → Option Nat
  | .instr i => some i.row
  | .nop _ => none

end Sys2Proof
end

