-- ==== Sys2Proof/Config.lean ====
section
/-! DEFINITION. The parameters of the CORE (R6) and its one free value, the random byte (R171). -/

namespace Sys2Proof.Config

/-- MEM_SIZE (R6): addresses 0x000 to 0xFFF. -/
abbrev memSize : Nat := 4096
/-- PC_RESET (R6). -/
abbrev pcReset : Addr := 0x200
/-- STACK_DEPTH (R6, R31). -/
abbrev stackDepth : Nat := 16
/-- FB_W (R6): the columns of the framebuffer. -/
abbrev fbWidth : Nat := 64
/-- FB_H (R6): the rows of the framebuffer. -/
abbrev fbHeight : Nat := 32
/-- NKEYS (R6). -/
abbrev nKeys : Nat := 16
/-- FONT_BASE (R6, C1). -/
abbrev fontBase : Nat := 0x050
/-- FONT_GLYPH_BYTES (R6): bytes of one glyph. -/
abbrev glyphBytes : Nat := 5
/-- The size of FONT (R6): 16 glyphs of 5 bytes. -/
abbrev fontSize : Nat := 80
/-- PROG_BASE (R6). -/
abbrev progBase : Nat := 0x200
/-- PROG_MAX (R6): 4096 - 0x200. -/
abbrev progMax : Nat := 3584

/-- ADDR_POLICY (R6, R61): what `addr(v)` answers for a value outside 0x000..0xFFF.
`wrap` is the spec's decision (D2), `clamp` its named alternative. -/
inductive AddrPolicy where
  | wrap
  | clamp
  deriving DecidableEq, Repr

/-- The parameters of R6 that a rule reads ("A model may take each one as an argument").
They ride in State as data that no operation changes, so that a statement about every state
holds for both policies and for every font (logs 1 and 2). -/
structure Params where
  addrPolicy : AddrPolicy
  font       : Vector Byte 80
  deriving DecidableEq, Repr

/-- The glyph bytes of R67's table, glyphs 0 to 7. PRESUMED (log 2): "from general knowledge, not in source". -/
def fontLow : List Byte :=
  [0xF0, 0x90, 0x90, 0x90, 0xF0] ++ [0x20, 0x60, 0x20, 0x20, 0x70] ++
  [0xF0, 0x10, 0xF0, 0x80, 0xF0] ++ [0xF0, 0x10, 0xF0, 0x10, 0xF0] ++
  [0x90, 0x90, 0xF0, 0x10, 0x10] ++ [0xF0, 0x80, 0xF0, 0x10, 0xF0] ++
  [0xF0, 0x80, 0xF0, 0x90, 0xF0] ++ [0xF0, 0x10, 0x20, 0x40, 0x40]

/-- The glyph bytes of R67's table, glyphs 8 to F. PRESUMED (log 2). -/
def fontHigh : List Byte :=
  [0xF0, 0x90, 0xF0, 0x90, 0xF0] ++ [0xF0, 0x90, 0xF0, 0x10, 0xF0] ++
  [0xF0, 0x90, 0xF0, 0x90, 0x90] ++ [0xE0, 0x90, 0xE0, 0x90, 0xE0] ++
  [0xF0, 0x80, 0x80, 0x80, 0xF0] ++ [0xE0, 0x90, 0x90, 0x90, 0xE0] ++
  [0xF0, 0x80, 0xF0, 0x80, 0xF0] ++ [0xF0, 0x80, 0xF0, 0x80, 0x80]

/-- FONT's default value (R67, D11). PRESUMED (log 2): no statement rests on these bytes. -/
def defaultFont : Vector Byte 80 := ⟨(fontLow ++ fontHigh).toArray, by decide⟩

/-- The values State.reset takes: ADDR_POLICY = wrap (R6, R61, D2; log 1) and the default FONT (R67; log 2). -/
def params : Params := { addrPolicy := .wrap, font := defaultFont }

/-- `random_byte()` (R171, D10): the byte the k-th STEP consumes when the host's supply in State says none.
A FREE VALUE (log 4): "a model must admit every value 0..255 at every Cxnn". It has no body. -/
opaque randomByte : Nat → Byte

end Sys2Proof.Config
end

