-- ==== Sys2Proof/Machine/State.lean ====
section
/-! DEFINITION. The Machine State (R20), the events, the reasons a step can stop, and the state after reset (R43, R290). -/

namespace Sys2Proof.Machine

/-- The four kinds of event (R260). -/
inductive EventKind where
  | stackOverflow
  | stackUnderflow
  | addrOutOfRange
  | keyOutOfRange
  deriving DecidableEq, Repr

/-- An event with the info it records (R260). An event is a report: it transfers no control. -/
inductive Event where
  /-- a push with SP = 16; the return address that was not pushed -/
  | stackOverflow (ret : Addr)
  /-- a pop with SP = 0 -/
  | stackUnderflow
  /-- an address or PC value outside 0x000..0xFFF reached `addr()`; the exact value before normalisation -/
  | addrOutOfRange (v : Int)
  /-- a key test named a key above 15; the value of V[x] -/
  | keyOutOfRange (v : Byte)
  deriving DecidableEq, Repr

/-- The five operations the host can issue (R40), by name. -/
inductive HostOpKind where
  | reset
  | load
  | setKeys
  | step
  | tick
  deriving DecidableEq, Repr

/-- The phases of the boot order (R295): "a precondition on the host, not state of the block". -/
inductive Phase where
  | beforeReset
  | ready
  | failed
  | running
  deriving DecidableEq, Repr

/-- The reasons a step can stop with a fault: none. "STEP always produces a next state. It never crashes,
never halts the block and never refuses" (R107); every error condition is an event (R261). -/
inductive Fault where
  deriving DecidableEq, Repr

/-- The reasons the model gives no meaning. -/
inductive Refusal where
  /-- an instruction that has no meaning yet; raised by an arm of exec and by nothing else; safe. No arm raises it now. -/
  | notModelled (mnemonic : String)
  /-- a host operation the boot order does not admit in this phase (R295, D14, D21); raised by Session.perform
  and by nothing else, never by step or a meaning; safe (D14: "the model refuses host sequences the hardware might accept"). -/
  | notAdmitted (phase : Phase) (op : HostOpKind)
  deriving DecidableEq, Repr

/-- MEM (R60) as the list of the bytes that differ from what an unlisted address reads as (Machine/Ops.lean),
addresses strictly rising. -/
abbrev Memory := List Host.Cell

/-- The Machine State (R20), plain data. -/
structure State where
  /-- The model's own: the parameters of R6, which no operation changes (logs 1 and 2). -/
  cfg    : Config.Params
  /-- `MEM` (R60). -/
  mem    : Memory
  /-- `V[0..15]` (R21); VF is element 15 (R23). -/
  v      : Vector Byte 16
  /-- `I` (R27). -/
  i      : Addr
  /-- `PC` (R25). -/
  pc     : Addr
  /-- `SP`, 0..16 (R28): the number of stack entries in use. -/
  sp     : Fin 17
  /-- `STACK[0..15]` (R31). -/
  stack  : Vector Addr 16
  /-- `DT` (R29). -/
  dt     : Byte
  /-- `ST` (R30). -/
  st     : Byte
  /-- `FB[r][c]` (R32, R33): row r from the top, column c from the left; true = lit. -/
  fb     : Vector (Vector Bool 64) 32
  /-- `KEY[k]` (R34): true = held. -/
  key    : Vector Bool 16
  /-- `ERR` (R35): bit 0 StackOverflow, bit 1 StackUnderflow, bit 2 AddrOutOfRange, bit 3 KeyOutOfRange. -/
  err    : BitVec 4
  /-- The events the last STEP raised, in raise order (R41, R100, R263; log 3). -/
  events : List Event
  /-- The model's own: random bytes the host has supplied and no STEP has consumed yet (R40, R171; log 4). -/
  rndIn  : List Byte
  /-- The model's own: how many random bytes STEPs have consumed (log 4). -/
  draws  : Nat
  deriving DecidableEq, Repr

/-- The reset state (R43, R290) for given parameters. Memory lists nothing: every byte is at its reset contents.
KEY = 0 (D12, log 8), ERR = 0 (D3, log 9), an empty event list (log 3), no supplied random byte and no draw (log 4). -/
def State.resetWith (p : Config.Params) : State where
  cfg := p
  mem := []
  v := Vector.replicate 16 0
  i := 0
  pc := Config.pcReset
  sp := 0
  stack := Vector.replicate 16 0
  dt := 0
  st := 0
  fb := Vector.replicate 32 (Vector.replicate 64 false)
  key := Vector.replicate 16 false
  err := 0
  events := []
  rndIn := []
  draws := 0

/-- The machine right after RESET (R43), with the parameters of R6 (Config.params). -/
def State.reset : State := State.resetWith Config.params

/-- The outcome of a step or a meaning. -/
abbrev Result := Host.Outcome State Fault Refusal

end Sys2Proof.Machine
end

