-- ==== Sys2Proof/Machine/Ops.lean ====
section
/-! DEFINITION. The named operations over the state: raising an event (this machine's one shared operation in the place of
an exception, R260, R266), addr(), memory, registers, stack, framebuffer, and an outcome's continuation. -/

namespace Sys2Proof.Machine

/-! ### Events (R260): the report that stands where another machine would take an exception -/

/-- The kind of an event. -/
def Event.kind : Event → EventKind
  | .stackOverflow _ => .stackOverflow
  | .stackUnderflow => .stackUnderflow
  | .addrOutOfRange _ => .addrOutOfRange
  | .keyOutOfRange _ => .keyOutOfRange

/-- The code of an event: its bit number in ERR (R35, R260). -/
def EventKind.code : EventKind → Nat
  | .stackOverflow => 0
  | .stackUnderflow => 1
  | .addrOutOfRange => 2
  | .keyOutOfRange => 3

/-- ERR with only the bit of one kind set. -/
def EventKind.bit (k : EventKind) : BitVec 4 := 1 <<< k.code

/-- `raise E(info)` (R9, R260): append to the step's event list and set the sticky bit. No control transfer (R266). -/
def State.raise (s : State) (e : Event) : State :=
  { s with events := s.events ++ [e], err := s.err ||| e.kind.bit }

/-! ### addr() (R61) -/

/-- A value `addr` leaves alone (R61). -/
abbrev inRange (v : Int) : Prop := 0 ≤ v ∧ v ≤ 0xFFF

/-- The result of `addr(v)` (R61) under either policy: v itself in range; else v modulo 0x1000, or the nearer end. -/
def normalise (p : Config.AddrPolicy) (v : Int) : Addr :=
  if inRange v then BitVec.ofInt 12 v
  else match p with
    | .wrap => BitVec.ofInt 12 v
    | .clamp => if v < 0 then 0x000 else 0xFFF

/-- The address `addr(v)` answers in this machine. -/
def State.norm (s : State) (v : Int) : Addr := normalise s.cfg.addrPolicy v

/-- The report `addr(v)` makes (R61): AddrOutOfRange(v) when v is outside 0x000..0xFFF, under both policies. -/
def State.noteAddr (s : State) (v : Int) : State :=
  if inRange v then s else s.raise (.addrOutOfRange v)

/-! ### Memory (R60, R66, R68) -/

/-- What an address nothing has written reads as: the reset contents (R43, R66): FONT at 0x050..0x09F, 0 elsewhere (log 26). -/
def unlisted (font : Vector Byte 80) (a : Nat) : Byte :=
  if h : 0x050 ≤ a ∧ a ≤ 0x09F then font[a - 0x050]'(by omega) else 0

/-- One byte of memory (R60, R65). -/
def Memory.read (font : Vector Byte 80) : Memory → Nat → Byte
  | [], a => unlisted font a
  | c :: rest, a => if c.1 = a then c.2 else Memory.read font rest a

/-- Memory without any entry for an address. -/
def Memory.erase : Memory → Nat → Memory
  | [], _ => []
  | c :: rest, a => if c.1 = a then Memory.erase rest a else c :: Memory.erase rest a

/-- Memory with one entry for an address, at its place in the rising order. -/
def Memory.insert : Memory → Nat → Byte → Memory
  | [], a, b => [(a, b)]
  | c :: rest, a, b =>
    if a < c.1 then (a, b) :: c :: rest
    else if c.1 = a then (a, b) :: rest
    else c :: Memory.insert rest a b

/-- Write one byte (R60, R68: every address may be written), keeping the canonical form: a byte that equals
the unlisted contents is not listed. -/
def Memory.write (font : Vector Byte 80) (m : Memory) (a : Nat) (b : Byte) : Memory :=
  if b = unlisted font a then m.erase a else m.insert a b

/-- The canonical form: addresses strictly rising and inside the 4096 bytes, no entry equal to the unlisted contents. -/
def Memory.wf (font : Vector Byte 80) : Memory → Bool
  | [] => true
  | c :: rest =>
    decide (c.1 < Config.memSize) && (c.2 != unlisted font c.1) && rest.all (fun d => decide (c.1 < d.1)) &&
      Memory.wf font rest

/-- `MemRead(a, 1)` (R9) at an address that addr() has produced. -/
def State.readByte (s : State) (a : Addr) : Byte := Memory.read s.cfg.font s.mem a.toNat

/-- `MemWrite(a, 1, b)` (R9) at an address that addr() has produced. -/
def State.writeByte (s : State) (a : Addr) (b : Byte) : State :=
  { s with mem := Memory.write s.cfg.font s.mem a.toNat b }

/-- `MemWrite(addr(v), 1, b)`: the report of addr() first, then the write (R61). -/
def State.storeAt (s : State) (v : Int) (b : Byte) : State :=
  (s.noteAddr v).writeByte (s.norm v) b

/-- Store bytes at consecutive values from v on, in ascending order (R70). -/
def State.storeBytes : State → Int → List Byte → State
  | s, _, [] => s
  | s, v, b :: rest => State.storeBytes (s.storeAt v b) (v + 1) rest

/-! ### Registers (R21, R27 to R30) -/

/-- `V[x]` (R9, R21). No register is hard-wired. -/
def State.getV (s : State) (x : Reg) : Byte := s.v[x]

/-- `V[x] <- b` (R9, R21). -/
def State.setV (s : State) (x : Reg) (b : Byte) : State := { s with v := s.v.set x.val b x.isLt }

/-- `I <- a` (R27). -/
def State.setI (s : State) (a : Addr) : State := { s with i := a }

/-- `PC <- a` (R25). -/
def State.setPC (s : State) (a : Addr) : State := { s with pc := a }

/-- `DT <- b` (R29). -/
def State.setDT (s : State) (b : Byte) : State := { s with dt := b }

/-- `ST <- b` (R30). -/
def State.setST (s : State) (b : Byte) : State := { s with st := b }

/-- `I <- addr(v)` (R61, R201). -/
def State.gotoI (s : State) (v : Int) : State := (s.noteAddr v).setI (s.norm v)

/-- `PC <- addr(v)` (R61, R126, R147, R221). -/
def State.gotoPC (s : State) (v : Int) : State := (s.noteAddr v).setPC (s.norm v)

/-- `skip()` (R147): PC <- addr(PC + 2) on the PC the fetch has already advanced. -/
def State.skip (s : State) : State := s.gotoPC (s.pc.toNat + 2)

/-- `if c then skip()` (R140 to R145). -/
def State.skipIf (s : State) (c : Bool) : State := if c then s.skip else s

/-- Load registers from consecutive values from v on, in ascending order (R205). -/
def State.loadRegs : State → Int → List Reg → State
  | s, _, [] => s
  | s, v, r :: rest => State.loadRegs ((s.noteAddr v).setV r (s.readByte (s.norm v))) (v + 1) rest

/-! ### The call stack (R120, R121) -/

/-- `push(a)` (R120): whether it succeeded, and the state. At depth 16 it raises StackOverflow(a) and changes nothing else. -/
def State.push (s : State) (a : Addr) : Bool × State :=
  if h : s.sp.val < 16 then
    (true, { s with stack := s.stack.set s.sp.val a h, sp := ⟨s.sp.val + 1, by omega⟩ })
  else (false, s.raise (.stackOverflow a))

/-- `pop()` (R121): the address, or none for a failure, and the state. At depth 0 it raises StackUnderflow and changes
nothing else (D5, log 11). The entry is not cleared (D18, log 18). -/
def State.pop (s : State) : Option Addr × State :=
  if h : 0 < s.sp.val then
    (some (s.stack[s.sp.val - 1]'(by omega)), { s with sp := ⟨s.sp.val - 1, by omega⟩ })
  else (none, s.raise .stackUnderflow)

/-! ### Keys (R34, R146) -/

/-- `KEY[v] = 1` for a key number 0..15; false above it (R146; D6, log 12). -/
def State.keyDown (s : State) (v : Byte) : Bool :=
  if h : v.toNat ≤ 15 then s.key[v.toNat]'(by omega) else false

/-- The report of `keyPressed(v)` (R146): KeyOutOfRange(v) when v > 15. -/
def State.noteKey (s : State) (v : Byte) : State :=
  if v.toNat ≤ 15 then s else s.raise (.keyOutOfRange v)

/-- The lowest-numbered key that is held, or none (R221). -/
def State.lowestKey (s : State) : Option Reg := (List.finRange 16).find? (fun k => s.key[k])

/-! ### The framebuffer (R32, R33) -/

/-- `FB[r][c]` (R33). -/
def State.pixel (s : State) (r : Fin 32) (c : Fin 64) : Bool := s.fb[r][c]

/-- `FB[r][c] <- b`. -/
def State.setPixel (s : State) (r : Fin 32) (c : Fin 64) (b : Bool) : State :=
  { s with fb := s.fb.set r.val (s.fb[r].set c.val b c.isLt) r.isLt }

/-- Every pixel 0 (R240). -/
def State.clearFB (s : State) : State := { s with fb := Vector.replicate 32 (Vector.replicate 64 false) }

/-! ### The random input (R171, D10; log 4) -/

/-- The byte `rnd` of the current STEP: the host's, if it has supplied one; else the free value. -/
def State.rndByte (s : State) : Byte :=
  match s.rndIn with
  | b :: _ => b
  | [] => Config.randomByte s.draws

/-- A STEP consumes one random byte, whatever its instruction (R36: "the random byte each STEP consumes"). -/
def State.consumeRnd (s : State) : State := { s with rndIn := s.rndIn.tail, draws := s.draws + 1 }

/-! ### Outcomes -/

/-- Continue a next state; a fault or a refusal stands. -/
def onNext (f : State → State) : Result → Result
  | .next s => .next (f s)
  | .fault r => .fault r
  | .refused r => .refused r

end Sys2Proof.Machine
end

