-- ==== Sys2Proof/Machine/Operands.lean ====
section
/-! DEFINITION. The operand forms: the values and address expressions an instruction makes from its fields and the registers (R82). -/

namespace Sys2Proof.Machine

/-- Bnnn (R126): the exact value V[0] + nnn. The offset register is always V0 (R85). -/
def State.offsetTarget (s : State) (nnn : Addr) : Int := (s.getV 0).toNat + nnn.toNat

/-- Fx0A (R221): the exact value PC - 2, on the advanced PC. -/
def State.rewindTarget (s : State) : Int := (s.pc.toNat : Int) - 2

/-- The exact value I + k (R62): the k-th byte of an access through I. -/
def State.indexPlus (s : State) (k : Nat) : Int := (s.i.toNat : Int) + k

/-- Fx29 (R202): 0x050 + V[x] * 5, exact, at most 0x54B, unmasked. -/
def glyphAddr (v : Byte) : Addr := BitVec.ofNat 12 (Config.fontBase + v.toNat * Config.glyphBytes)

/-- Fx33 (R203): hundreds, tens and ones of a byte, in the order they are stored. -/
def bcdDigits (v : Byte) : List Byte :=
  [BitVec.ofNat 8 (v.toNat / 100), BitVec.ofNat 8 (v.toNat / 10 % 10), BitVec.ofNat 8 (v.toNat % 10)]

/-- Fx55 and Fx65 (R204, R205): the registers V0..Vx, ascending. -/
def regsUpTo (x : Reg) : List Reg := (List.finRange 16).take (x.val + 1)

/-- Dxyn (R241): the origin's column, V[x] mod 64. -/
def State.originCol (s : State) (x : Reg) : Nat := (s.getV x).toNat % Config.fbWidth
/-- Dxyn (R241): the origin's row, V[y] mod 32. -/
def State.originRow (s : State) (y : Reg) : Nat := (s.getV y).toNat % Config.fbHeight

/-- Dxyn (R241): bit 7 of a sprite row is its leftmost pixel, column 0 of the sprite. -/
def spriteBit (b : Byte) (col : Nat) : Bool := b.getLsbD (7 - col)

end Sys2Proof.Machine
end

