-- ==== Sys2Proof/Machine/Fetch.lean ====
section
/-! DEFINITION. The fetch and the PC advance of a step (R100, R101, R102). -/

namespace Sys2Proof.Machine

/-- The word at PC (R101): the byte at PC is its high byte, the byte at addr(PC + 1) its low byte. -/
def State.fetchWord (s : State) : Word :=
  wordOfBytes (s.readByte s.pc) (s.readByte (s.norm ((s.pc.toNat : Int) + 1)))

/-- What the fetch leaves (R100, R102): an empty event list, then the report of the second byte's address,
then PC <- addr(pc0 + 2) with its report. The handler runs in this state. -/
def State.afterFetch (s : State) : State :=
  ({ s with events := [] }.noteAddr ((s.pc.toNat : Int) + 1)).gotoPC ((s.pc.toNat : Int) + 2)

end Sys2Proof.Machine
end

