-- ==== Sys2Proof/Machine/Alu.lean ====
section
/-! DEFINITION. The register and arithmetic-logic instructions: 6xnn, 7xnn, 8xyN, Cxnn (R160 to R173).
Group 8 runs its statements in the written order, each reading the registers as the one before left them (R9, D8, log 14). -/

namespace Sys2Proof.Machine

/-- 6xnn (R160): V[x] <- nn. -/
def execLdImm (x : Reg) (nn : Byte) (s : State) : Result := .next (s.setV x nn)

/-- 7xnn (R161): V[x] <- (V[x] + nn) mod 256; no carry. -/
def execAddImm (x : Reg) (nn : Byte) (s : State) : Result := .next (s.setV x (sumByte (s.getV x) nn))

/-- 8xy0 (R162): V[x] <- V[y]. -/
def execLdReg (x y : Reg) (s : State) : Result := .next (s.setV x (s.getV y))

/-- 8xy1 (R163): V[x] <- V[x] | V[y]. -/
def execOr (x y : Reg) (s : State) : Result := .next (s.setV x (s.getV x ||| s.getV y))

/-- 8xy2 (R164): V[x] <- V[x] & V[y]. -/
def execAnd (x y : Reg) (s : State) : Result := .next (s.setV x (s.getV x &&& s.getV y))

/-- 8xy3 (R165): V[x] <- V[x] ^ V[y]. -/
def execXor (x y : Reg) (s : State) : Result := .next (s.setV x (s.getV x ^^^ s.getV y))

/-- The shape of 8xy5, 8xy6, 8xy7 and 8xyE (R167 to R170): the flag goes to VF, then V[x] gets a result that reads
the registers AFTER that write (R172). -/
def State.flagThenResult (s : State) (x : Reg) (flag : Byte) (result : State → Byte) : State :=
  (s.setV vF flag).setV x (result (s.setV vF flag))

/-- 8xy4 (R166): the sum is read before any write; VF <- carry, then V[x] <- sum & 0xFF. -/
def execAddReg (x y : Reg) (s : State) : Result :=
  .next (s.flagThenResult x (carryFlag (s.getV x) (s.getV y)) (fun _ => sumByte (s.getV x) (s.getV y)))

/-- 8xy5 (R167): VF <- (V[x] > V[y]), then V[x] <- (V[x] - V[y]) mod 256. -/
def execSub (x y : Reg) (s : State) : Result :=
  .next (s.flagThenResult x (greaterFlag (s.getV x) (s.getV y)) (fun t => diffByte (t.getV x) (t.getV y)))

/-- 8xy6 (R168): VF <- V[x] & 1, then V[x] <- V[x] >> 1. -/
def execShr (x : Reg) (s : State) : Result :=
  .next (s.flagThenResult x (lsbFlag (s.getV x)) (fun t => shrByte (t.getV x)))

/-- 8xy7 (R169): VF <- (V[y] >= V[x]), then V[x] <- (V[y] - V[x]) mod 256. -/
def execSubn (x y : Reg) (s : State) : Result :=
  .next (s.flagThenResult x (noBorrowFlag (s.getV x) (s.getV y)) (fun t => diffByte (t.getV y) (t.getV x)))

/-- 8xyE (R170): VF <- bit 7 of V[x], then V[x] <- (V[x] << 1) & 0xFF. -/
def execShl (x : Reg) (s : State) : Result :=
  .next (s.flagThenResult x (msbFlag (s.getV x)) (fun t => shlByte (t.getV x)))

/-- Cxnn (R171): V[x] <- rnd & nn, where rnd is the step's random byte (log 4). -/
def execRnd (x : Reg) (nn : Byte) (s : State) : Result := .next (s.setV x (s.rndByte &&& nn))

end Sys2Proof.Machine
end

