-- ==== Sys2Proof/Machine/Control.lean ====
section
/-! DEFINITION. Control flow and the call stack: 00EE, 1nnn, 2nnn, Bnnn (R122 to R126). -/

namespace Sys2Proof.Machine

/-- 00EE (R122): PC <- pop(); on an empty stack PC keeps the advanced value (D5, log 11). -/
def execRet (s : State) : Result :=
  match s.pop with
  | (some a, t) => .next (t.setPC a)
  | (none, t) => .next t

/-- 1nnn (R123): PC <- nnn. -/
def execJp (nnn : Addr) (s : State) : Result := .next (s.setPC nnn)

/-- 2nnn (R124): push the advanced PC, then jump; on a full stack neither (D4, log 10). -/
def execCall (nnn : Addr) (s : State) : Result :=
  match s.push s.pc with
  | (true, t) => .next (t.setPC nnn)
  | (false, t) => .next t

/-- Bnnn (R126): PC <- addr(V[0] + nnn). -/
def execJpV0 (nnn : Addr) (s : State) : Result := .next (s.gotoPC (s.offsetTarget nnn))

end Sys2Proof.Machine
end

