-- ==== Sys2Proof/Machine/Display.lean ====
section
/-! DEFINITION. The display instructions: 00E0 and the sprite compositor Dxyn (R240 to R243). -/

namespace Sys2Proof.Machine

/-- 00E0 (R240): every pixel 0; VF is not written. -/
def execCls (s : State) : Result := .next s.clearFB

/-- A sprite bit that is 1 at a pixel (R242): a lit pixel sets VF to 1 (collision), then the pixel is toggled. -/
def State.plot (s : State) (r : Fin 32) (c : Fin 64) : State :=
  (if s.pixel r c then s.setV vF 1 else s).setPixel r c (!s.pixel r c)

/-- The column loop of R242 over the sprite columns left to draw: it exits at the right edge, never wrapping;
a sprite bit that is 0 does nothing. -/
def State.drawCols (r : Fin 32) (x0 : Nat) (b : Byte) : List Nat → State → State
  | [], s => s
  | col :: rest, s =>
    if h : x0 + col < 64 then
      State.drawCols r x0 b rest (if spriteBit b col then s.plot r ⟨x0 + col, h⟩ else s)
    else s

/-- The row loop of R242 over the sprite rows left to draw: it exits at the bottom edge, so that the rows below are
not read from memory (D9, log 15); each row's byte is at addr(I + row). -/
def State.drawRows (x0 y0 : Nat) : List Nat → State → State
  | [], s => s
  | row :: rest, s =>
    if h : y0 + row < 32 then
      State.drawRows x0 y0 rest
        ((s.noteAddr (s.indexPlus row)).drawCols ⟨y0 + row, h⟩ x0 (s.readByte (s.norm (s.indexPlus row))) (List.range 8))
    else s

/-- Dxyn (R242): the origin is read first, then VF is reset (D9, log 15), then n rows are drawn. -/
def execDrw (x y : Reg) (n : Nat) (s : State) : Result :=
  .next ((s.setV vF 0).drawRows (s.originCol x) (s.originRow y) (List.range n))

end Sys2Proof.Machine
end

