-- ==== Sys2Proof/Machine/Index.lean ====
section
/-! DEFINITION. The index register and the memory transfers: Annn, Fx1E, Fx29, Fx33, Fx55, Fx65 (R200 to R206). -/

namespace Sys2Proof.Machine

/-- Annn (R200): I <- nnn. -/
def execLdI (nnn : Addr) (s : State) : Result := .next (s.setI nnn)

/-- Fx1E (R201): I <- addr(I + V[x]); VF is not written. -/
def execAddIVx (x : Reg) (s : State) : Result := .next (s.gotoI (s.indexPlus (s.getV x).toNat))

/-- Fx29 (R202): I <- 0x050 + V[x] * 5. -/
def execLdFVx (x : Reg) (s : State) : Result := .next (s.setI (glyphAddr (s.getV x)))

/-- Fx33 (R203): hundreds, tens and ones of V[x] to addr(I), addr(I + 1), addr(I + 2); I unchanged. -/
def execLdBVx (x : Reg) (s : State) : Result :=
  .next (s.storeBytes (s.indexPlus 0) (bcdDigits (s.getV x)))

/-- Fx55 (R204): V[0..x] to addr(I + i), i ascending; I unchanged. -/
def execLdMemVx (x : Reg) (s : State) : Result :=
  .next (s.storeBytes (s.indexPlus 0) ((regsUpTo x).map s.getV))

/-- Fx65 (R205): V[0..x] from addr(I + i), i ascending; I unchanged. -/
def execLdVxMem (x : Reg) (s : State) : Result := .next (s.loadRegs (s.indexPlus 0) (regsUpTo x))

end Sys2Proof.Machine
end

