-- ==== Sys2Proof/Machine/Skips.lean ====
section
/-! DEFINITION. The conditional skips: 3xnn, 4xnn, 5xy0, 9xy0, Ex9E, ExA1 (R140 to R147). -/

namespace Sys2Proof.Machine

/-- 3xnn (R140): skip if V[x] = nn. -/
def execSeImm (x : Reg) (nn : Byte) (s : State) : Result := .next (s.skipIf (s.getV x == nn))

/-- 4xnn (R141): skip if V[x] ≠ nn. -/
def execSneImm (x : Reg) (nn : Byte) (s : State) : Result := .next (s.skipIf (s.getV x != nn))

/-- 5xy0 (R142): skip if V[x] = V[y]. -/
def execSeReg (x y : Reg) (s : State) : Result := .next (s.skipIf (s.getV x == s.getV y))

/-- 9xy0 (R143): skip if V[x] ≠ V[y]. -/
def execSneReg (x y : Reg) (s : State) : Result := .next (s.skipIf (s.getV x != s.getV y))

/-- Ex9E (R144): skip if the key V[x] is pressed, after keyPressed's report (R146). -/
def execSkp (x : Reg) (s : State) : Result :=
  .next ((s.noteKey (s.getV x)).skipIf (s.keyDown (s.getV x)))

/-- ExA1 (R145): skip if the key V[x] is not pressed, after keyPressed's report (R146). -/
def execSknp (x : Reg) (s : State) : Result :=
  .next ((s.noteKey (s.getV x)).skipIf (!s.keyDown (s.getV x)))

end Sys2Proof.Machine
end

