-- ==== Sys2Proof/Machine/Timers.lean ====
section
/-! DEFINITION. The timer and key-wait instructions: Fx07, Fx0A, Fx15, Fx18 (R220 to R223). -/

namespace Sys2Proof.Machine

/-- Fx07 (R220): V[x] <- DT. -/
def execLdVxDt (x : Reg) (s : State) : Result := .next (s.setV x s.dt)

/-- Fx0A (R221): with no key held PC <- addr(PC - 2), which re-executes this instruction at the next step;
else V[x] <- the lowest-numbered held key. The wait is no state of the block (R37). -/
def execLdVxK (x : Reg) (s : State) : Result :=
  match s.lowestKey with
  | none => .next (s.gotoPC s.rewindTarget)
  | some k => .next (s.setV x (BitVec.ofNat 8 k.val))

/-- Fx15 (R222): DT <- V[x]. -/
def execLdDtVx (x : Reg) (s : State) : Result := .next (s.setDT (s.getV x))

/-- Fx18 (R223): ST <- V[x]. -/
def execLdStVx (x : Reg) (s : State) : Result := .next (s.setST (s.getV x))

end Sys2Proof.Machine
end

