-- ==== Sys2Proof/Machine/Step.lean ====
section
/-! DEFINITION. STEP (R100): fetch, advance, decode, dispatch. -/

namespace Sys2Proof.Machine

/-- STEP (R100). The step fetches the word at PC, advances PC, and runs the word's instruction in the state that leaves;
an unassigned word does nothing more (R106). The step's random byte is consumed (R36, log 4); its event list is left in
`events` (log 3). STEP alone: TICK, SET_KEYS, RESET and LOAD are the host's (log 6), in Machine/Session.lean. -/
def step (s : State) : Host.Outcome State Fault Refusal :=
  match decode s.fetchWord with
  | .instr i => onNext State.consumeRnd (exec i s.afterFetch)
  | .nop _ => onNext State.consumeRnd (.next s.afterFetch)

/-- The state with one instruction word stored where step fetches next: its high byte at PC, its low byte at
addr(PC + 1) (R63, R101). It stands for the host's LOAD of a program (R292, log 7); nothing else changes. -/
def State.withFetchWord (s : State) (nbits w : Nat) : State :=
  let word : Word := BitVec.ofNat 16 (w % 2 ^ nbits)
  (s.writeByte s.pc (highByte word)).writeByte (s.norm ((s.pc.toNat : Int) + 1)) (lowByte word)

end Sys2Proof.Machine
end

