-- ==== Sys2Proof/Machine/HostOps.lean ====
section
/-! DEFINITION. The host's operations beside STEP: RESET, LOAD, SET_KEYS, TICK (R40), STEP with its input, and what the host reads (R41). -/

namespace Sys2Proof.Machine

/-- RESET (R290, R291): "replaces the whole state with the reset state", whatever the state was. The parameters stay,
and so do the model's own input fields rndIn and draws, which are not state of the block (log 29). -/
def State.resetOp (s : State) : State :=
  { State.resetWith s.cfg with rndIn := s.rndIn, draws := s.draws }

/-- What LOAD returns (R292). -/
inductive LoadResult where
  | ok
  | programTooLarge
  | sourceEmpty
  deriving DecidableEq, Repr

/-- `for j: MEM[a + j] <- bytes[j]` (R292); the addresses are in range, so no addr() is applied (R62). -/
def State.copyBytes : State → Nat → List Byte → State
  | s, _, [] => s
  | s, a, b :: rest => State.copyBytes (s.writeByte (BitVec.ofNat 12 a) b) (a + 1) rest

/-- LOAD(bytes) (R292): nothing is written on a failure, nothing but MEM[0x200..] on success, and ERR is not touched (D14, log 17). -/
def State.load (s : State) (bytes : List Byte) : LoadResult × State :=
  if bytes.length = 0 then (.sourceEmpty, s)
  else if bytes.length > Config.progMax then (.programTooLarge, s)
  else (.ok, s.copyBytes Config.progBase bytes)

/-- SET_KEYS(k) (R34, R40): KEY[i] <- k[i] for every i. -/
def State.setKeys (s : State) (k : Vector Bool 16) : State := { s with key := k }

/-- One countdown: decremented by one while non-zero (R29, R30, R224). -/
def countDown (b : Byte) : Byte := if b.toNat > 0 then b - 1 else b

/-- TICK (R224): each timer counts down on its own; nothing else is touched and no event is raised. -/
def State.tick (s : State) : State := { s with dt := countDown s.dt, st := countDown s.st }

/-- STEP(rnd) (R40, R100): the host supplies the step's random byte ahead of any other. -/
def stepWith (rnd : Byte) (s : State) : Result := step { s with rndIn := rnd :: s.rndIn }

/-- The values the host can read between operations (R41). -/
structure HostView where
  fb          : Vector (Vector Bool 64) 32
  st          : Byte
  soundActive : Bool
  err         : BitVec 4
  events      : List Event
  deriving DecidableEq, Repr

/-- `sound_active = (ST ≠ 0)` (R41, R225): the block's whole sound output. -/
def State.soundActive (s : State) : Bool := s.st != 0

/-- What the host reads (R41). -/
def State.hostView (s : State) : HostView :=
  { fb := s.fb, st := s.st, soundActive := s.soundActive, err := s.err, events := s.events }

end Sys2Proof.Machine
end

