-- ==== Sys2Proof/Machine/Session.lean ====
section
/-! DEFINITION. The host's side of the block: the five operations in the order the boot order admits (R40, R42, R295). -/

namespace Sys2Proof.Machine

/-- An operation with its inputs (R40). -/
inductive HostOp where
  | reset
  | load (bytes : List Byte)
  | setKeys (k : Vector Bool 16)
  | step (rnd : Byte)
  | tick
  deriving DecidableEq, Repr

/-- An operation's name. -/
def HostOp.kind : HostOp → HostOpKind
  | .reset => .reset
  | .load _ => .load
  | .setKeys _ => .setKeys
  | .step _ => .step
  | .tick => .tick

/-- What an operation returns (R40). -/
inductive Reply where
  | nothing
  | loaded (r : LoadResult)
  | raised (es : List Event)
  deriving DecidableEq, Repr

/-- The block as the host holds it: its phase (R295) and its state. Before the first RESET there is no state to speak of,
only the parameters: "A model treats every element as unwritten until RESET" (R44). -/
inductive Session where
  | beforeReset (p : Config.Params)
  | ready (s : State)
  | failed (s : State)
  | running (s : State)
  deriving DecidableEq, Repr

/-- The phase of a session (R295). -/
def Session.phase : Session → Phase
  | .beforeReset _ => .beforeReset
  | .ready _ => .ready
  | .failed _ => .failed
  | .running _ => .running

/-- The outcome of a host operation: its reply and the session after it. -/
abbrev HostResult := Host.Outcome (Reply × Session) Fault Refusal

/-- RESET, admitted in every phase (R291, R295). -/
def Session.performReset : Session → HostResult
  | .beforeReset p => .next (.nothing, .ready (State.resetWith p))
  | .ready s | .failed s | .running s => .next (.nothing, .ready s.resetOp)

/-- LOAD, admitted only in the reset phase; a failure leads to the failed phase (R295). -/
def Session.performLoad (bytes : List Byte) : Session → HostResult
  | .ready s =>
    match s.load bytes with
    | (.ok, t) => .next (.loaded .ok, .running t)
    | (r, t) => .next (.loaded r, .failed t)
  | h => .refused (.notAdmitted h.phase .load)

/-- STEP, admitted only in the running phase (R295); it returns the events it raised (R100). -/
def Session.performStep (rnd : Byte) : Session → HostResult
  | .running s =>
    match stepWith rnd s with
    | .next t => .next (.raised t.events, .running t)
    | .fault r => .fault r
    | .refused r => .refused r
  | h => .refused (.notAdmitted h.phase .step)

/-- TICK, admitted only in the running phase (R295). -/
def Session.performTick : Session → HostResult
  | .running s => .next (.nothing, .running s.tick)
  | h => .refused (.notAdmitted h.phase .tick)

/-- SET_KEYS, admitted only in the running phase (R295). -/
def Session.performSetKeys (k : Vector Bool 16) : Session → HostResult
  | .running s => .next (.nothing, .running (s.setKeys k))
  | h => .refused (.notAdmitted h.phase .setKeys)

/-- One operation of the host (R40), one at a time (R38). -/
def Session.perform (op : HostOp) (h : Session) : HostResult :=
  match op with
  | .reset => h.performReset
  | .load bytes => Session.performLoad bytes h
  | .setKeys k => Session.performSetKeys k h
  | .step rnd => Session.performStep rnd h
  | .tick => h.performTick

end Sys2Proof.Machine
end

