-- ==== Sys2Proof/Safety.lean ====
section
/-! DEFINITION. The terms claims use: what an operation leaves unchanged, the invariant of every step, runs without
an event, and the end of a run (R45, R260, R302). -/

namespace Sys2Proof.Machine

/-- The parts a frame names. `regs` is all of V (VF is register 15 of it), `inputs` and `config` are the model's own. -/
inductive Part where
  | regs
  | index
  | pc
  | stack
  | delay
  | sound
  | display
  | keys
  | err
  | events
  | memory
  | inputs
  | config
  deriving DecidableEq, Repr

/-- A part reads the same in two states. Memory is every one of its 4096 bytes, the display every pixel,
the stack its depth and all 16 entries. -/
def Part.same (p : Part) (s t : State) : Prop :=
  match p with
  | .regs => ∀ r : Reg, t.getV r = s.getV r
  | .index => t.i = s.i
  | .pc => t.pc = s.pc
  | .stack => t.sp = s.sp ∧ ∀ d : Fin 16, t.stack[d] = s.stack[d]
  | .delay => t.dt = s.dt
  | .sound => t.st = s.st
  | .display => ∀ (r : Fin 32) (c : Fin 64), t.pixel r c = s.pixel r c
  | .keys => ∀ k : Fin 16, t.key[k] = s.key[k]
  | .err => t.err = s.err
  | .events => t.events = s.events
  | .memory => ∀ a : Addr, t.readByte a = s.readByte a
  | .inputs => t.rndIn = s.rndIn ∧ t.draws = s.draws
  | .config => t.cfg = s.cfg

/-- Every part but the listed ones reads the same after as before. -/
def Unchanged (except : List Part) (s t : State) : Prop := ∀ p : Part, p ∉ except → p.same s t

/-- Every register but the listed ones reads the same. -/
def RegsUnchanged (except : List Reg) (s t : State) : Prop := ∀ r : Reg, r ∉ except → t.getV r = s.getV r

/-- The parts an instruction may write (R22, R26 to R34, R60, and the "Events" lines of R122 to R242): its frame is the rest.
What an instruction's rule does not name it does not write. -/
def writeParts : Instr → List Part
  | .cls => [.display]
  | .ret | .call _ => [.pc, .stack, .err, .events]
  | .jp _ => [.pc]
  | .seImm _ _ | .sneImm _ _ | .seReg _ _ | .sneReg _ _ | .skp _ | .sknp _ | .jpV0 _ => [.pc, .err, .events]
  | .ldImm _ _ | .addImm _ _ | .ldReg _ _ | .orReg _ _ | .andReg _ _ | .xorReg _ _ => [.regs]
  | .addReg _ _ | .sub _ _ | .shr _ | .subn _ _ | .shl _ | .rnd _ _ | .ldVxDt _ => [.regs]
  | .drw _ _ _ => [.regs, .display, .err, .events]
  | .ldVxK _ => [.regs, .pc, .err, .events]
  | .ldDtVx _ => [.delay]
  | .ldStVx _ => [.sound]
  | .ldI _ | .ldFVx _ => [.index]
  | .addIVx _ => [.index, .err, .events]
  | .ldBVx _ | .ldMemVx _ => [.memory, .err, .events]
  | .ldVxMem _ => [.regs, .err, .events]

/-- The general registers an instruction may write (R22, R23). -/
def writeRegs : Instr → List Reg
  | .ldImm x _ | .addImm x _ | .ldReg x _ | .orReg x _ | .andReg x _ | .xorReg x _ | .rnd x _ | .ldVxDt x | .ldVxK x => [x]
  | .addReg x _ | .sub x _ | .shr x | .subn x _ | .shl x => [vF, x]
  | .drw _ _ _ => [vF]
  | .ldVxMem x => (List.finRange 16).filter (fun r => r ≤ x)
  | .cls | .ret | .jp _ | .call _ | .seImm _ _ | .sneImm _ _ | .seReg _ _ | .sneReg _ _ | .ldI _ | .jpV0 _ => []
  | .skp _ | .sknp _ | .ldDtVx _ | .ldStVx _ | .addIVx _ | .ldFVx _ | .ldBVx _ | .ldMemVx _ => []

/-- R61, spelled on integers: `a` is the result of addr(v) under the state's policy. -/
def AddrResult (s : State) (v : Int) (a : Addr) : Prop :=
  (inRange v → (a.toNat : Int) = v) ∧
  (¬ inRange v → s.cfg.addrPolicy = .wrap → (a.toNat : Int) = v % 0x1000) ∧
  (¬ inRange v → s.cfg.addrPolicy = .clamp → (a.toNat : Int) = if v < 0 then 0 else 0xFFF)

/-- R61, R260, R263: what the addr() calls on a list of values report, in order: one AddrOutOfRange event for each value out of
range, and bit 2 of ERR if there is one. -/
def AddrReports (s t : State) (vs : List Int) : Prop :=
  t.events = s.events ++ (vs.filter (fun v => decide (¬ inRange v))).map Event.addrOutOfRange ∧
  t.err = if ∀ v ∈ vs, inRange v then s.err else s.err ||| 0b0100

/-- R147: the state after a skip: PC <- addr(PC + 2), its report, and nothing else. -/
def Skipped (s t : State) : Prop :=
  AddrResult s (s.pc.toNat + 2) t.pc ∧ AddrReports s t [(s.pc.toNat : Int) + 2] ∧ Unchanged [.pc, .err, .events] s t

/-- R146: the state after keyPressed(v)'s report: for v > 15 one KeyOutOfRange event and bit 3 of ERR, else nothing. -/
def KeyReported (s t : State) (v : Byte) : Prop :=
  (v.toNat ≤ 15 → t = s) ∧
  (15 < v.toNat → t.events = s.events ++ [.keyOutOfRange v] ∧ t.err = s.err ||| 0b1000 ∧ Unchanged [.err, .events] s t)

/-- R146: the key named by v is held. No key has a number above 15. -/
def KeyHeld (s : State) (v : Byte) : Prop := ∃ k : Fin 16, k.val = v.toNat ∧ s.key[k] = true

/-- Bytes stored at addr(v), addr(v + 1), ..., in ascending order (R70): every byte outside those addresses is as before, and
each address holds the last byte stored there. -/
def Stores (s t : State) (v : Int) (bs : List Byte) : Prop :=
  (∀ a : Addr, (∀ k : Nat, k < bs.length → a ≠ s.norm (v + k)) → t.readByte a = s.readByte a) ∧
  (∀ k : Nat, (h : k < bs.length) → (∀ j : Nat, k < j → j < bs.length → s.norm (v + j) ≠ s.norm (v + k)) →
    t.readByte (s.norm (v + k)) = bs[k])

/-- R26: how each instruction leaves PC, from the state its fetch has left (whose PC is R26's pc1). -/
def finalPC (i : Instr) (s : State) : Addr :=
  let skipped := s.norm ((s.pc.toNat : Int) + 2)
  match i with
  | .jp nnn => nnn
  | .call nnn => if s.sp.val < 16 then nnn else s.pc
  | .ret => if h : 0 < s.sp.val then s.stack[s.sp.val - 1]'(by omega) else s.pc
  | .jpV0 nnn => s.norm ((s.getV 0).toNat + nnn.toNat)
  | .seImm x nn => if s.getV x = nn then skipped else s.pc
  | .sneImm x nn => if s.getV x ≠ nn then skipped else s.pc
  | .seReg x y => if s.getV x = s.getV y then skipped else s.pc
  | .sneReg x y => if s.getV x ≠ s.getV y then skipped else s.pc
  | .skp x => if s.keyDown (s.getV x) then skipped else s.pc
  | .sknp x => if s.keyDown (s.getV x) then s.pc else skipped
  | .ldVxK _ => if ∀ k : Fin 16, s.key[k] = false then s.norm ((s.pc.toNat : Int) - 2) else s.pc
  | .cls | .ldImm _ _ | .addImm _ _ | .ldReg _ _ | .orReg _ _ | .andReg _ _ | .xorReg _ _ | .addReg _ _ | .sub _ _ => s.pc
  | .shr _ | .subn _ _ | .shl _ | .ldI _ | .rnd _ _ | .drw _ _ _ | .ldVxDt _ | .ldDtVx _ | .ldStVx _ | .addIVx _ => s.pc
  | .ldFVx _ | .ldBVx _ | .ldMemVx _ | .ldVxMem _ => s.pc

/-- R241, R242 in closed form: the sprite of Dxyn has a 1 bit at pixel (r, c), before any clipping is needed: r and c are
inside the framebuffer by their types. -/
def State.spriteCovers (s : State) (x y : Reg) (n : Nat) (r : Fin 32) (c : Fin 64) : Prop :=
  let x0 := (s.getV x).toNat % 64
  let y0 := (s.getV y).toNat % 32
  y0 ≤ r.val ∧ r.val < y0 + n ∧ x0 ≤ c.val ∧ c.val < x0 + 8 ∧
  (s.readByte (s.norm ((s.i.toNat : Int) + (r.val - y0 : Nat)))).getLsbD (7 - (c.val - x0)) = true

/-- What R260 says an event records: an address outside 0x000..0xFFF and in -2..0x10FE, a key number above 15. -/
def Event.legal : Event → Prop
  | .addrOutOfRange v => ¬ inRange v ∧ -2 ≤ v ∧ v ≤ 0x10FE
  | .keyOutOfRange v => 15 < v.toNat
  | .stackOverflow _ => True
  | .stackUnderflow => True

/-- The sticky bit of an event's kind is set in ERR (R260). -/
def State.recorded (s : State) (e : Event) : Prop := s.err &&& e.kind.bit = e.kind.bit

/-- The invariant every operation keeps. The bounds of R45 hold by the types of State; this is the rest: memory in its
canonical form inside the 4096 bytes, and every event of the last STEP legal and recorded in ERR (R260). -/
def State.Inv (s : State) : Prop :=
  Memory.wf s.cfg.font s.mem = true ∧ ∀ e ∈ s.events, e.legal ∧ s.recorded e

/-- An AddrOutOfRange event is in a list. -/
def hasAddrEvent (es : List Event) : Bool := es.any (fun e => e.kind == .addrOutOfRange)

/-- A run that has recorded nothing since RESET (D3: the "no fault recorded" premise). -/
def State.quiet (s : State) : Prop := s.err = 0

/-- R302: the word of a jump to its own address. -/
def selfJump (endPc : Addr) : Word := encode (.jp endPc)

/-- R302: the run is at its end: PC = END_PC and the bytes there still form the self-jump. It says nothing of the hardware. -/
def State.atEnd (s : State) (endPc : Addr) : Prop := s.pc = endPc ∧ s.fetchWord = selfJump endPc

end Sys2Proof.Machine
end

