-- ==== Sys2Proof/Certificates/Slice0/Obligations.lean ====
section
/-! DEFINITION. The statements about the model, from the numbered rules of spec/. Each docstring says which. -/

open Sys2Proof Sys2Proof.Machine

/-! ### Encoding (30_encoding.md) -/

/-- Every well-formed instruction's word decodes to it, with every operand at every value (R83, R89). -/
def Obligations.DecodeOfEncodeIsTheInstruction : Prop :=
  ∀ i : Instr, i.wellFormed = true → decode (encode i) = .instr i

/-- The other direction: an assigned word decodes to a well-formed instruction whose word is the given one, up to
the field y that R85 says SHR and SHL ignore, which the encoder writes 0 (log 20). -/
def Obligations.EncodeOfDecodeIsTheWord : Prop :=
  ∀ (w : Word) (i : Instr), decode w = .instr i →
    i.wellFormed = true ∧
    (encode i = w ∨ ∃ x : Reg, (i = .shr x ∨ i = .shl x) ∧ encode i = w &&& 0xFF0F)

/-- The routing of R104 and the table of R83 agree on all 65536 words: a word decodes to the row it selects, and to NOP
if it selects none. The masks of rows 1, 2, 7 and 19 are the spec's decision D7 (log 13). -/
def Obligations.DecodeSelectsTheTableRow : Prop :=
  ∀ w : Word, (decode w).row = (opcodeTable.find? (fun r => r.selects w)).map (fun r => r.num)

/-- "No two rows select the same word" (R83, derived there), and the table has 34 rows (R2). -/
def Obligations.NoTwoTableRowsOverlap : Prop :=
  opcodeTable.length = 34 ∧
  ∀ (w : Word) (r q : OpcodeRow), r ∈ opcodeTable → q ∈ opcodeTable → r.selects w = true → q.selects w = true → r = q

/-- The unassigned words are exactly those of R86's table, and the decoder names the word it was given.
Which words of groups 0, 5 and 9 these are is the spec's decision D7 (log 13). -/
def Obligations.UnassignedWordsAreThoseOfTheTable : Prop :=
  (∀ w v : Word, decode w = .nop v → v = w) ∧
  ∀ w : Word, decode w = .nop w ↔
    (fieldOp w = 0x0 ∧ w ≠ 0x00E0 ∧ w ≠ 0x00EE) ∨
    (fieldOp w = 0x5 ∧ fieldN w ≠ 0) ∨
    (fieldOp w = 0x8 ∧ fieldN w ∈ [0x8, 0x9, 0xA, 0xB, 0xC, 0xD, 0xF]) ∨
    (fieldOp w = 0x9 ∧ fieldN w ≠ 0) ∨
    (fieldOp w = 0xE ∧ (fieldNN w).toNat ∉ [0x9E, 0xA1]) ∨
    (fieldOp w = 0xF ∧ (fieldNN w).toNat ∉ [0x07, 0x0A, 0x15, 0x18, 0x1E, 0x29, 0x33, 0x55, 0x65])

/-- R103: the fields as pure functions of the word, as numbers. -/
def Obligations.FieldsAreTheBitsOfTheWord : Prop :=
  ∀ w : Word,
    (fieldOp w).toNat = w.toNat / 0x1000 ∧ (fieldX w).val = w.toNat / 0x100 % 16 ∧ (fieldY w).val = w.toNat / 0x10 % 16 ∧
    fieldN w = w.toNat % 16 ∧ (fieldNN w).toNat = w.toNat % 0x100 ∧ (fieldNNN w).toNat = w.toNat % 0x1000

/-- Twelve words written out from the selectors of R83: eleven of assigned instructions, one or more of each family, and the
unassigned 0x01E0. That 0x01E0 is a NOP and not CLS is the spec's decision D7 (log 13; V-DEC-2). -/
def Obligations.SampleWordsDecode : Prop :=
  decode 0x00E0 = .instr .cls ∧ decode 0x00EE = .instr .ret ∧ decode 0x1204 = .instr (.jp 0x204) ∧
  decode 0x5120 = .instr (.seReg 1 2) ∧ decode 0x6A42 = .instr (.ldImm 10 0x42) ∧ decode 0x8354 = .instr (.addReg 3 5) ∧
  decode 0x812E = .instr (.shl 1) ∧ decode 0xF21E = .instr (.addIVx 2) ∧ decode 0xF30A = .instr (.ldVxK 3) ∧
  decode 0xD234 = .instr (.drw 2 3 4) ∧ decode 0xE19E = .instr (.skp 1) ∧ decode 0x01E0 = .nop 0x01E0

/-- R85: the ignored field y of 8xy6 and 8xyE selects the same instruction at every value. -/
def Obligations.IgnoredFieldsDoNotMatter : Prop :=
  ∀ x y : Reg,
    decode (BitVec.ofNat 16 (0x8006 + x.val * 0x100 + y.val * 0x10)) = .instr (.shr x) ∧
    decode (BitVec.ofNat 16 (0x800E + x.val * 0x100 + y.val * 0x10)) = .instr (.shl x)

/-! ### The step (40_step_dispatch.md) -/

/-- A step runs the decoded instruction in the state the fetch has left, and consumes its random byte (R100, R104; log 4). -/
def Obligations.StepRunsTheDecodedInstruction : Prop :=
  ∀ (s : State) (i : Instr), decode s.fetchWord = .instr i →
    step s = onNext State.consumeRnd (exec i s.afterFetch)

/-- R101, R102: the word is big-endian from PC and addr(PC + 1), PC becomes addr(PC + 2), the event list starts empty and
holds the reports of these two addr() calls in order, and nothing else changes. addr() beyond 0xFFF is the spec's decision
D2 (log 1); the statement holds under both policies. -/
def Obligations.FetchReadsTheWordAndAdvancesPC : Prop :=
  ∀ s : State,
    (∃ a : Addr, AddrResult s (s.pc.toNat + 1) a ∧
      s.fetchWord.toNat = (s.readByte s.pc).toNat * 256 + (s.readByte a).toNat) ∧
    AddrResult s (s.pc.toNat + 2) s.afterFetch.pc ∧
    AddrReports { s with events := [] } s.afterFetch [(s.pc.toNat : Int) + 1, (s.pc.toNat : Int) + 2] ∧
    Unchanged [.pc, .err, .events] s s.afterFetch

/-- R106: an unassigned word changes nothing beyond the fetch's PC advance and its reports; a random byte is consumed (log 4). -/
def Obligations.UnassignedWordOnlyAdvancesPC : Prop :=
  ∀ (s : State) (w : Word), decode s.fetchWord = .nop w →
    ∃ t, step s = .next t ∧ AddrResult s (s.pc.toNat + 2) t.pc ∧
      AddrReports { s with events := [] } t [(s.pc.toNat : Int) + 1, (s.pc.toNat : Int) + 2] ∧
      t.rndIn = s.rndIn.tail ∧ t.draws = s.draws + 1 ∧ Unchanged [.pc, .err, .events, .inputs] s t

/-- R107: STEP always produces a next state, and so does every instruction in every state. -/
def Obligations.StepAlwaysAnswersNext : Prop :=
  (∀ s : State, ∃ t, step s = .next t) ∧ ∀ (i : Instr) (s : State), ∃ t, exec i s = .next t

/-- R108, R100: STEP(rnd) depends on the state of the block and on rnd alone: the random bytes supplied for later and the index of
the free value do not matter, whatever the instruction. -/
def Obligations.StepDependsOnStateAndRndOnly : Prop :=
  ∀ (rnd : Byte) (s : State) (l : List Byte) (d : Nat),
    ∃ t, stepWith rnd s = .next t ∧
      stepWith rnd { s with rndIn := l, draws := d } = .next { t with rndIn := l, draws := d + 1 }

/-- R100: rnd is used only by Cxnn: every other instruction has the same effect whatever the random input is. -/
def Obligations.OnlyRndReadsTheRandomByte : Prop :=
  ∀ (i : Instr) (s : State) (l : List Byte) (d : Nat), (∀ x nn, i ≠ .rnd x nn) →
    ∃ t, exec i s = .next t ∧ exec i { s with rndIn := l, draws := d } = .next { t with rndIn := l, draws := d }

/-- R109: STEP does not change KEY; DT changes only in a step of Fx15 and ST only in a step of Fx18, to the register's value. -/
def Obligations.OnlyFx15AndFx18ChangeTheTimers : Prop :=
  ∀ s : State, ∃ t, step s = .next t ∧ (∀ k : Fin 16, t.key[k] = s.key[k]) ∧
    (t.dt ≠ s.dt → ∃ x, decode s.fetchWord = .instr (.ldDtVx x) ∧ t.dt = s.getV x) ∧
    (t.st ≠ s.st → ∃ x, decode s.fetchWord = .instr (.ldStVx x) ∧ t.st = s.getV x)

/-- The frame of every instruction: only the parts of `writeParts` and the registers of `writeRegs` may change
(R22 to R34, R60). That a rule which names no write makes none is the spec's inference for 7xnn, 8xy1 to 8xy3, Fx1E, 00E0 (VF) and
for Fx33, Fx55, Fx65, Dxyn (I): log 27. -/
def Obligations.EveryInstructionKeepsItsFrame : Prop :=
  ∀ (i : Instr) (s : State), ∃ t, exec i s = .next t ∧ Unchanged (writeParts i) s t ∧ RegsUnchanged (writeRegs i) s t

/-- R26: how each instruction leaves PC. It rests on the spec's decisions D2, D4, D5, D6 and D22 (logs 1, 10, 11, 12, 28). -/
def Obligations.EveryInstructionLeavesPCAsTabled : Prop :=
  ∀ (i : Instr) (s : State), ∃ t, exec i s = .next t ∧ t.pc = finalPC i s

/-- R260, R264: ERR only grows in a step, by exactly the bits of the events the step raised. ERR and the event list are the
spec's decision D3 (logs 3, 9). -/
def Obligations.ErrRecordsExactlyTheEventsRaised : Prop :=
  ∀ s : State, ∃ t, step s = .next t ∧ t.err = t.events.foldl (fun e ev => e ||| ev.kind.bit) s.err

/-- R263, R264: the fetch's reports come first: a handler only appends to the event list, and sets in ERR the bits of what it
appends. The event list and ERR are the spec's decision D3 (logs 3, 9), the order of several events its decision D20 (log 19). -/
def Obligations.HandlersOnlyAppendEvents : Prop :=
  ∀ (i : Instr) (s : State), ∃ t es, exec i s = .next t ∧ t.events = s.events ++ es ∧
    t.err = es.foldl (fun e ev => e ||| ev.kind.bit) s.err

/-! ### Control flow (41_control_flow.md) -/

/-- R120: push. The clauses on STACK, SP and success are R120's; the event list and bit 0 of ERR at SP = 16 are R260's, the spec's
decision D3 (logs 3, 9). -/
def Obligations.PushStoresOrReportsOverflow : Prop :=
  ∀ (s : State) (a : Addr),
    (∀ d : Fin 16, s.sp.val = d.val → ∃ t, s.push a = (true, t) ∧ t.sp.val = d.val + 1 ∧ t.stack[d] = a ∧
      (∀ e : Fin 16, e ≠ d → t.stack[e] = s.stack[e]) ∧ Unchanged [.stack] s t) ∧
    (s.sp.val = 16 → ∃ t, s.push a = (false, t) ∧ t.events = s.events ++ [.stackOverflow a] ∧ t.err = s.err ||| 0b0001 ∧
      Unchanged [.err, .events] s t)

/-- R124: a call with room pushes the advanced PC and jumps; at SP = 16 it makes no push and no jump and raises
StackOverflow, PC keeping its advanced value (the spec's decision D4, log 10). -/
def Obligations.CallPushesTheReturnAddress : Prop :=
  ∀ (nnn : Addr) (s : State), ∃ t, exec (.call nnn) s = .next t ∧
    (∀ d : Fin 16, s.sp.val = d.val → t.pc = nnn ∧ t.sp.val = d.val + 1 ∧ t.stack[d] = s.pc ∧
      (∀ e : Fin 16, e ≠ d → t.stack[e] = s.stack[e]) ∧ Unchanged [.pc, .stack] s t) ∧
    (s.sp.val = 16 → t.events = s.events ++ [.stackOverflow s.pc] ∧ t.err = s.err ||| 0b0001 ∧
      Unchanged [.err, .events] s t)

/-- R122: a return pops the top entry into PC and leaves the entries as they are (D18, log 18); at SP = 0 it makes no pop and
no jump and raises StackUnderflow, PC keeping its advanced value (the spec's decision D5, log 11). -/
def Obligations.ReturnPopsTheTopEntry : Prop :=
  ∀ s : State, ∃ t, exec .ret s = .next t ∧
    (∀ d : Fin 16, s.sp.val = d.val + 1 → t.pc = s.stack[d] ∧ t.sp.val = d.val ∧
      (∀ e : Fin 16, t.stack[e] = s.stack[e]) ∧ Unchanged [.pc, .stack] s t) ∧
    (s.sp.val = 0 → t.events = s.events ++ [.stackUnderflow] ∧ t.err = s.err ||| 0b0010 ∧ Unchanged [.err, .events] s t)

/-- R125, R120, R121: a return undoes a call: after 2nnn with room, 00EE comes back to the pushed address and to the depth before. -/
def Obligations.ReturnUndoesCall : Prop :=
  ∀ (nnn : Addr) (s : State), s.sp.val < 16 → ∃ t, exec (.call nnn) s = .next t ∧
    ∀ u : State, u.sp = t.sp → u.stack = t.stack → ∃ r, exec .ret u = .next r ∧ r.pc = s.pc ∧ r.sp = s.sp ∧
      Unchanged [.pc, .stack] u r

/-- R123: 1nnn, encoding, target and frame. -/
def Obligations.JumpSetsPC : Prop :=
  ∀ nnn : Addr, decode (BitVec.ofNat 16 (0x1000 + nnn.toNat)) = .instr (.jp nnn) ∧
    ∀ s : State, ∃ t, exec (.jp nnn) s = .next t ∧ t.pc = nnn ∧ Unchanged [.pc] s t

/-- R126: Bnnn jumps to addr(V[0] + nnn). Beyond 0xFFF this rests on the spec's decision D2 (log 1). -/
def Obligations.JumpWithOffsetAddsV0 : Prop :=
  ∀ (nnn : Addr) (s : State), ∃ t, exec (.jpV0 nnn) s = .next t ∧
    AddrResult s ((s.getV 0).toNat + nnn.toNat) t.pc ∧
    AddrReports s t [((s.getV 0).toNat : Int) + nnn.toNat] ∧ Unchanged [.pc, .err, .events] s t

/-! ### Skips (42_skips.md) -/

/-- R140 to R143, R147: the register comparisons skip exactly when their condition holds; else nothing changes.
A skip past 0xFFF rests on the spec's decision D2 (log 1). -/
def Obligations.RegisterSkipsFollowTheirCondition : Prop :=
  ∀ (x y : Reg) (nn : Byte) (s : State),
    (∃ t, exec (.seImm x nn) s = .next t ∧ (s.getV x = nn → Skipped s t) ∧ (s.getV x ≠ nn → t = s)) ∧
    (∃ t, exec (.sneImm x nn) s = .next t ∧ (s.getV x ≠ nn → Skipped s t) ∧ (s.getV x = nn → t = s)) ∧
    (∃ t, exec (.seReg x y) s = .next t ∧ (s.getV x = s.getV y → Skipped s t) ∧ (s.getV x ≠ s.getV y → t = s)) ∧
    (∃ t, exec (.sneReg x y) s = .next t ∧ (s.getV x ≠ s.getV y → Skipped s t) ∧ (s.getV x = s.getV y → t = s))

/-- R144 to R146: the key tests report a key number above 15 first, which counts as not pressed (the spec's decision D6,
log 12), and then skip exactly when the key is, or is not, held. -/
def Obligations.KeySkipsFollowTheKey : Prop :=
  ∀ (x : Reg) (s : State), ∃ u, KeyReported s u (s.getV x) ∧
    (∃ t, exec (.skp x) s = .next t ∧ (KeyHeld s (s.getV x) → Skipped u t) ∧ (¬ KeyHeld s (s.getV x) → t = u)) ∧
    (∃ t, exec (.sknp x) s = .next t ∧ (¬ KeyHeld s (s.getV x) → Skipped u t) ∧ (KeyHeld s (s.getV x) → t = u))

/-! ### Arithmetic and logic (43_alu.md) -/

/-- R160: 6xnn, encoding, value and frame. VF changes only as the destination. -/
def Obligations.LoadImmediateSetsTheRegister : Prop :=
  ∀ (x : Reg) (nn : Byte),
    decode (BitVec.ofNat 16 (0x6000 + x.val * 0x100 + nn.toNat)) = .instr (.ldImm x nn) ∧
    ∀ s : State, ∃ t, exec (.ldImm x nn) s = .next t ∧ t.getV x = nn ∧ RegsUnchanged [x] s t ∧ Unchanged [.regs] s t

/-- R161, R163: 7xnn adds modulo 256 and 8xy1 is the bitwise OR; neither writes VF unless it is the destination (for both the
spec's inference, log 27). -/
def Obligations.AddImmediateAndOrWriteNoFlag : Prop :=
  ∀ (x y : Reg) (nn : Byte) (s : State),
    (∃ t, exec (.addImm x nn) s = .next t ∧ (t.getV x).toNat = ((s.getV x).toNat + nn.toNat) % 256 ∧
      RegsUnchanged [x] s t ∧ Unchanged [.regs] s t) ∧
    (∃ t, exec (.orReg x y) s = .next t ∧
      (∀ k < 8, (t.getV x).getLsbD k = ((s.getV x).getLsbD k || (s.getV y).getLsbD k)) ∧
      RegsUnchanged [x] s t ∧ Unchanged [.regs] s t)

/-- R162, R164, R165: 8xy0, 8xy2 and 8xy3: encoding, value bit by bit, and frame. That 8xy2 and 8xy3 leave VF alone unless it is
the destination is the spec's inference (R23; log 27). -/
def Obligations.CopyAndXorWorkBitByBit : Prop :=
  ∀ x y : Reg,
    decode (BitVec.ofNat 16 (0x8000 + x.val * 0x100 + y.val * 0x10)) = .instr (.ldReg x y) ∧
    decode (BitVec.ofNat 16 (0x8002 + x.val * 0x100 + y.val * 0x10)) = .instr (.andReg x y) ∧
    decode (BitVec.ofNat 16 (0x8003 + x.val * 0x100 + y.val * 0x10)) = .instr (.xorReg x y) ∧
    ∀ s : State,
      (∃ t, exec (.ldReg x y) s = .next t ∧ t.getV x = s.getV y ∧ RegsUnchanged [x] s t ∧ Unchanged [.regs] s t) ∧
      (∃ t, exec (.andReg x y) s = .next t ∧
        (∀ k < 8, (t.getV x).getLsbD k = ((s.getV x).getLsbD k && (s.getV y).getLsbD k)) ∧
        RegsUnchanged [x] s t ∧ Unchanged [.regs] s t) ∧
      (∃ t, exec (.xorReg x y) s = .next t ∧
        (∀ k < 8, (t.getV x).getLsbD k = xor ((s.getV x).getLsbD k) ((s.getV y).getLsbD k)) ∧
        RegsUnchanged [x] s t ∧ Unchanged [.regs] s t)

/-- R166: 8xy4, for every x and y: V[x] gets the sum modulo 256, VF the carry unless x names VF. Where x names VF the sum replaces
the carry, because the statements run in written order: the spec's decision D8 (R172; log 14). -/
def Obligations.AddRegistersWritesSumAndCarry : Prop :=
  ∀ x y : Reg,
    decode (BitVec.ofNat 16 (0x8004 + x.val * 0x100 + y.val * 0x10)) = .instr (.addReg x y) ∧
    ∀ s : State, ∃ t, exec (.addReg x y) s = .next t ∧
      (t.getV x).toNat = ((s.getV x).toNat + (s.getV y).toNat) % 256 ∧
      (x ≠ vF → (t.getV vF).toNat = if (s.getV x).toNat + (s.getV y).toNat > 255 then 1 else 0) ∧
      RegsUnchanged [vF, x] s t ∧ Unchanged [.regs] s t

/-- R167, R169: the subtractions, for every x and y. The flag compares the old operands (strictly in 8xy5, not in 8xy7, C6); the
difference reads VF, where x or y names it, after the flag write (the spec's decision D8, log 14). -/
def Obligations.SubtractionsWriteFlagThenDifference : Prop :=
  ∀ (x y : Reg) (s : State),
    (∃ t, exec (.sub x y) s = .next t ∧
      (let c := if (s.getV x).toNat > (s.getV y).toNat then 1 else 0
       let a := if x = vF then c else (s.getV x).toNat
       let b := if y = vF then c else (s.getV y).toNat
       (t.getV x).toNat = (256 + a - b) % 256 ∧ (x ≠ vF → (t.getV vF).toNat = c)) ∧
      RegsUnchanged [vF, x] s t ∧ Unchanged [.regs] s t) ∧
    (∃ t, exec (.subn x y) s = .next t ∧
      (let c := if (s.getV y).toNat ≥ (s.getV x).toNat then 1 else 0
       let a := if x = vF then c else (s.getV x).toNat
       let b := if y = vF then c else (s.getV y).toNat
       (t.getV x).toNat = (256 + b - a) % 256 ∧ (x ≠ vF → (t.getV vF).toNat = c)) ∧
      RegsUnchanged [vF, x] s t ∧ Unchanged [.regs] s t)

/-- R168, R170: the shifts, for every x: VF gets the bit shifted out, V[x] the shifted value, read after the flag write
where x names VF (the spec's decision D8, log 14). -/
def Obligations.ShiftsWriteFlagThenResult : Prop :=
  ∀ (x : Reg) (s : State),
    (∃ t, exec (.shr x) s = .next t ∧
      (let f := (s.getV x).toNat % 2
       (t.getV x).toNat = (if x = vF then f else (s.getV x).toNat) / 2 ∧ (x ≠ vF → (t.getV vF).toNat = f)) ∧
      RegsUnchanged [vF, x] s t ∧ Unchanged [.regs] s t) ∧
    (∃ t, exec (.shl x) s = .next t ∧
      (let f := (s.getV x).toNat / 128
       (t.getV x).toNat = (if x = vF then f else (s.getV x).toNat) * 2 % 256 ∧ (x ≠ vF → (t.getV vF).toNat = f)) ∧
      RegsUnchanged [vF, x] s t ∧ Unchanged [.regs] s t)

/-- R172: every cell of the table of outcomes when a group-8 instruction names VF. The table is the spec's inference from its
decision D8 (log 14). -/
def Obligations.FlagAliasingTable : Prop :=
  ∀ (r : Reg) (s : State), r ≠ vF →
    (let f := (s.getV vF).toNat
     let b := (s.getV r).toNat
     (∃ t, exec (.addReg vF r) s = .next t ∧ (t.getV vF).toNat = (f + b) % 256) ∧
     (∃ t, exec (.addReg r vF) s = .next t ∧ (t.getV r).toNat = (b + f) % 256 ∧
       (t.getV vF).toNat = if b + f > 255 then 1 else 0) ∧
     (∃ t, exec (.addReg vF vF) s = .next t ∧ (t.getV vF).toNat = 2 * f % 256) ∧
     (∃ t, exec (.sub vF r) s = .next t ∧ (t.getV vF).toNat = (256 + (if f > b then 1 else 0) - b) % 256) ∧
     (∃ t, exec (.sub r vF) s = .next t ∧ (t.getV vF).toNat = (if b > f then 1 else 0) ∧
       (t.getV r).toNat = (256 + b - (if b > f then 1 else 0)) % 256) ∧
     (∃ t, exec (.sub vF vF) s = .next t ∧ (t.getV vF).toNat = 0) ∧
     (∃ t, exec (.shr vF) s = .next t ∧ (t.getV vF).toNat = 0) ∧
     (∃ t, exec (.subn vF r) s = .next t ∧ (t.getV vF).toNat = (256 + b - (if b ≥ f then 1 else 0)) % 256) ∧
     (∃ t, exec (.subn r vF) s = .next t ∧ (t.getV vF).toNat = (if f ≥ b then 1 else 0) ∧
       (t.getV r).toNat = (256 + (if f ≥ b then 1 else 0) - b) % 256) ∧
     (∃ t, exec (.subn vF vF) s = .next t ∧ (t.getV vF).toNat = 0) ∧
     (∃ t, exec (.shl vF) s = .next t ∧ (t.getV vF).toNat = 2 * (f / 128)))

/-- R171: Cxnn gives the step's random byte under the mask: the host's byte if it has supplied one, whichever it is (every value
is admitted, the spec's decision D10, log 4); only bits set in nn can be 1. -/
def Obligations.RandomByteIsMasked : Prop :=
  ∀ (x : Reg) (nn : Byte) (s : State), ∃ t, exec (.rnd x nn) s = .next t ∧
    (∃ rnd : Byte, t.getV x = rnd &&& nn ∧ ∀ (b : Byte) (l : List Byte), s.rndIn = b :: l → rnd = b) ∧
    (∀ k, (t.getV x).getLsbD k = true → nn.getLsbD k = true) ∧ RegsUnchanged [x] s t ∧ Unchanged [.regs] s t

/-! ### Index and memory (44_index_memory.md) -/

/-- R200: Annn, encoding, value and frame. -/
def Obligations.LoadIndexSetsI : Prop :=
  ∀ nnn : Addr, decode (BitVec.ofNat 16 (0xA000 + nnn.toNat)) = .instr (.ldI nnn) ∧
    ∀ s : State, ∃ t, exec (.ldI nnn) s = .next t ∧ t.i = nnn ∧ Unchanged [.index] s t

/-- R201, R202: Fx1E sets I to addr(I + V[x]) (beyond 0xFFF the spec's decision D2, log 1) and Fx29 to 0x050 + V[x] * 5, unmasked
(the spec's inference, log 27). Neither writes VF. -/
def Obligations.IndexArithmetic : Prop :=
  ∀ (x : Reg) (s : State),
    (∃ t, exec (.addIVx x) s = .next t ∧ AddrResult s (s.i.toNat + (s.getV x).toNat) t.i ∧
      AddrReports s t [(s.i.toNat : Int) + (s.getV x).toNat] ∧ Unchanged [.index, .err, .events] s t) ∧
    (∃ t, exec (.ldFVx x) s = .next t ∧ t.i.toNat = 0x050 + (s.getV x).toNat * 5 ∧ Unchanged [.index] s t)

/-- R203: Fx33 stores three decimal digits of V[x], hundreds first, at addr(I), addr(I + 1), addr(I + 2); every other byte is as
before. That I is unchanged is the spec's inference (R27; log 27); addresses beyond 0xFFF rest on its decision D2 (log 1). -/
def Obligations.BcdStoresThreeDigits : Prop :=
  ∀ (x : Reg) (s : State), ∃ (t : State) (h d u : Byte), exec (.ldBVx x) s = .next t ∧
    h.toNat * 100 + d.toNat * 10 + u.toNat = (s.getV x).toNat ∧ d.toNat ≤ 9 ∧ u.toNat ≤ 9 ∧
    Stores s t s.i.toNat [h, d, u] ∧
    AddrReports s t [(s.i.toNat : Int), (s.i.toNat : Int) + 1, (s.i.toNat : Int) + 2] ∧
    Unchanged [.memory, .err, .events] s t

/-- R204: Fx55 stores exactly the x + 1 bytes V[0..x] at addr(I + k); every other byte is as before.
That I is unchanged is the spec's inference (R204, R27; log 27); addresses beyond 0xFFF rest on its decision D2 (log 1). -/
def Obligations.StoreRegistersWritesXPlusOneBytes : Prop :=
  ∀ (x : Reg) (s : State), ∃ (t : State) (bs : List Byte), exec (.ldMemVx x) s = .next t ∧
    bs.length = x.val + 1 ∧ (∀ k : Reg, (h : k.val < bs.length) → bs[k.val] = s.getV k) ∧
    Stores s t s.i.toNat bs ∧
    AddrReports s t ((List.range (x.val + 1)).map (fun k : Nat => (s.i.toNat : Int) + k)) ∧
    Unchanged [.memory, .err, .events] s t

/-- R205: Fx65 loads V[0..x] from addr(I + k) and no other register; memory is unchanged.
That I is unchanged is the spec's inference (R27; log 27); addresses beyond 0xFFF rest on its decision D2 (log 1). -/
def Obligations.LoadRegistersReadsXPlusOneBytes : Prop :=
  ∀ (x : Reg) (s : State), ∃ t, exec (.ldVxMem x) s = .next t ∧
    (∀ r : Reg, t.getV r = if r ≤ x then s.readByte (s.norm ((s.i.toNat : Int) + r.val)) else s.getV r) ∧
    AddrReports s t ((List.range (x.val + 1)).map (fun k : Nat => (s.i.toNat : Int) + k)) ∧
    Unchanged [.regs, .err, .events] s t

/-- R206: Fx55 then Fx65 with the same x, with memory, I and the parameters kept in between, restores V[0..x]: always under wrap
(the spec's decision D2, log 1), and under either policy when no address passes 0xFFF. Under clamp every register whose address
was folded onto 0xFFF reloads V[x]. That Fx55 itself leaves I is the spec's inference (R204, R27; log 27). -/
def Obligations.DumpThenLoadRestoresTheRegisters : Prop :=
  ∀ (x : Reg) (s : State), ∃ t, exec (.ldMemVx x) s = .next t ∧
    ∀ u : State, (∀ a, u.readByte a = t.readByte a) → u.i = t.i → u.cfg = t.cfg →
      ∃ r, exec (.ldVxMem x) u = .next r ∧
        (s.cfg.addrPolicy = .wrap ∨ s.i.toNat + x.val ≤ 0xFFF → ∀ k : Reg, k ≤ x → r.getV k = s.getV k) ∧
        (s.cfg.addrPolicy = .clamp → s.i.toNat + x.val > 0xFFF →
          ∀ k : Reg, k ≤ x → r.getV k = if s.i.toNat + k.val ≥ 0xFFF then s.getV x else s.getV k)

/-- R71, R298: a store to the next word is executed by the next step: after Fx55 with I at the advanced PC and x at least 1, the
word fetched next is V0 ++ V1. -/
def Obligations.StoredWordIsFetchedNext : Prop :=
  ∀ (x : Reg) (s : State), 1 ≤ x.val → s.i = s.pc → s.pc.toNat + x.val ≤ 0xFFF →
    ∃ t, exec (.ldMemVx x) s = .next t ∧ t.fetchWord.toNat = (s.getV 0).toNat * 256 + (s.getV 1).toNat

/-! ### Timers and keys (45_timers_keys.md) -/

/-- R220, R222: Fx07 reads DT and Fx15 sets it: encoding, value and frame. -/
def Obligations.DelayTimerIsReadAndSet : Prop :=
  ∀ x : Reg,
    decode (BitVec.ofNat 16 (0xF007 + x.val * 0x100)) = .instr (.ldVxDt x) ∧
    decode (BitVec.ofNat 16 (0xF015 + x.val * 0x100)) = .instr (.ldDtVx x) ∧
    ∀ s : State,
      (∃ t, exec (.ldVxDt x) s = .next t ∧ t.getV x = s.dt ∧ RegsUnchanged [x] s t ∧ Unchanged [.regs] s t) ∧
      (∃ t, exec (.ldDtVx x) s = .next t ∧ t.dt = s.getV x ∧ Unchanged [.delay] s t)

/-- R223, R225: Fx18 sets ST, and the sound output is the level ST ≠ 0. -/
def Obligations.SoundTimerIsSetAndHeard : Prop :=
  ∀ (x : Reg) (s : State), ∃ t, exec (.ldStVx x) s = .next t ∧ t.st = s.getV x ∧ Unchanged [.sound] s t ∧
    (t.hostView.soundActive = true ↔ s.getV x ≠ 0)

/-- R221: Fx0A takes the lowest-numbered held key; with none held it only moves PC back by 2 through addr() (the spec's
decision D22, log 28). -/
def Obligations.KeyWaitTakesTheLowestKeyOrRewinds : Prop :=
  ∀ (x : Reg) (s : State), ∃ t, exec (.ldVxK x) s = .next t ∧
    (∀ k : Fin 16, s.key[k] = true → (∀ j : Fin 16, j < k → s.key[j] = false) →
      (t.getV x).toNat = k.val ∧ RegsUnchanged [x] s t ∧ Unchanged [.regs] s t) ∧
    ((∀ k : Fin 16, s.key[k] = false) →
      AddrResult s ((s.pc.toNat : Int) - 2) t.pc ∧ AddrReports s t [(s.pc.toNat : Int) - 2] ∧
      Unchanged [.pc, .err, .events] s t)

/-- R221 as a whole step: with no key held and the policy wrap, Fx0A re-executes itself: the step leaves PC where it was and changes
nothing but the reports and the random input. It rests on the spec's decisions D2 and D22 (logs 1, 28). -/
def Obligations.KeyWaitReexecutesItself : Prop :=
  ∀ (x : Reg) (s : State), s.cfg.addrPolicy = .wrap → decode s.fetchWord = .instr (.ldVxK x) →
    (∀ k : Fin 16, s.key[k] = false) →
    ∃ t, step s = .next t ∧ t.pc = s.pc ∧ Unchanged [.err, .events, .inputs] s t

/-- R224: TICK decrements each timer by one if it is non-zero, never below zero, and touches nothing else. -/
def Obligations.TickCountsBothTimersDown : Prop :=
  ∀ s : State, s.tick.dt.toNat = s.dt.toNat - 1 ∧ s.tick.st.toNat = s.st.toNat - 1 ∧ Unchanged [.delay, .sound] s s.tick

/-! ### Display (46_display.md) -/

/-- R240: 00E0 turns every pixel off, whatever was there, and changes nothing else (that VF is kept is the spec's inference, log 27). -/
def Obligations.ClearTurnsEveryPixelOff : Prop :=
  decode 0x00E0 = .instr .cls ∧
  ∀ s : State, ∃ t, exec .cls s = .next t ∧ (∀ r c, t.pixel r c = false) ∧ Unchanged [.display] s t

/-- R241, R242 in closed form, for every x, y (VF among them) and n: exactly the pixels under a 1 bit of the clipped sprite are toggled; VF is
1 exactly when one of them was lit; the rows read are reported in order, the clipped ones not; nothing else changes.
The origin is read before VF is reset and clipped rows are not read: the spec's decision D9 (log 15); addresses beyond 0xFFF: D2 (log 1).
That I is unchanged (R27) and that n = 0 draws nothing are the spec's inferences (log 27). -/
def Obligations.DrawTogglesExactlyTheSpriteBits : Prop :=
  ∀ (x y : Reg) (n : Nat) (s : State), ∃ t, exec (.drw x y n) s = .next t ∧
    (∀ r c, s.spriteCovers x y n r c → t.pixel r c = !s.pixel r c) ∧
    (∀ r c, ¬ s.spriteCovers x y n r c → t.pixel r c = s.pixel r c) ∧
    ((∃ r c, s.spriteCovers x y n r c ∧ s.pixel r c = true) → t.getV vF = 1) ∧
    ((¬ ∃ r c, s.spriteCovers x y n r c ∧ s.pixel r c = true) → t.getV vF = 0) ∧
    RegsUnchanged [vF] s t ∧
    AddrReports s t ((List.range (min n (32 - (s.getV y).toNat % 32))).map (fun k : Nat => (s.i.toNat : Int) + k)) ∧
    Unchanged [.regs, .display, .err, .events] s t

/-- R243: drawing the same sprite again at the same origin restores the framebuffer, and the second draw's VF says whether some touched
pixel was lit by the first. The second draw may come in any state with that framebuffer, memory, I and parameters whose operands give the
same origin. Where x or y names VF the origin is the one before the reset of VF, the spec's decision D9 (log 15); that the first draw
leaves I is its inference (R27; log 27). -/
def Obligations.DrawTwiceRestoresTheFramebuffer : Prop :=
  ∀ (x y : Reg) (n : Nat) (s : State), ∃ t, exec (.drw x y n) s = .next t ∧
    ∀ (u : State) (x' y' : Reg), (∀ r c, u.pixel r c = t.pixel r c) → (∀ a, u.readByte a = t.readByte a) → u.i = t.i → u.cfg = t.cfg →
      (u.getV x').toNat % 64 = (s.getV x).toNat % 64 → (u.getV y').toNat % 32 = (s.getV y).toNat % 32 →
      ∃ v, exec (.drw x' y' n) u = .next v ∧ (∀ r c, v.pixel r c = s.pixel r c) ∧
        (v.getV vF = 1 ↔ ∃ r c, s.spriteCovers x y n r c ∧ t.pixel r c = true)

/-! ### Invariants, parameters and the end of a run -/

/-- The invariant of every step (R45, R60, R260): memory stays canonical and inside its 4096 bytes, every event of the step is
legal and recorded in ERR. The form of memory is the model's (log 26), the event channel the spec's decision D3 (logs 3, 9). -/
def Obligations.StepKeepsTheInvariant : Prop := ∀ s t : State, s.Inv → step s = .next t → t.Inv

/-- The invariant holds after RESET, for every parameter value. -/
def Obligations.ResetMeetsTheInvariant : Prop := State.reset.Inv ∧ ∀ p : Config.Params, (State.resetWith p).Inv

/-- Every other operation of the host keeps the invariant too (R45: "after every operation"). -/
def Obligations.HostOperationsKeepTheInvariant : Prop :=
  ∀ s : State, s.Inv → s.tick.Inv ∧ s.resetOp.Inv ∧ (∀ k, (s.setKeys k).Inv) ∧ ∀ bytes, (s.load bytes).2.Inv

/-- R61's closing remark, D2: a step that reports no AddrOutOfRange does the same under both address policies (the spec's inference). -/
def Obligations.QuietStepsDoNotDependOnThePolicy : Prop :=
  ∀ (s : State) (p : Config.AddrPolicy), ∃ t, step s = .next t ∧
    (hasAddrEvent t.events = false →
      step { s with cfg := { s.cfg with addrPolicy := p } } = .next { t with cfg := { t.cfg with addrPolicy := p } })

/-- The canonical form of memory is canonical (R60; the form is the model's, log 26): two memories in it that read alike at all 4096
addresses are equal data. -/
def Obligations.CanonicalMemoriesThatReadAlikeAreEqual : Prop :=
  ∀ (f : Vector Byte 80) (m k : Memory), Memory.wf f m = true → Memory.wf f k = true →
    (∀ a : Nat, a < 4096 → Memory.read f m a = Memory.read f k a) → m = k

/-- R302: at the end of a run, every further STEP leaves the state as it is and stays at the end, and it raises no event where the advance stays in
range. At END_PC = 0xFFE or 0xFFF the advance passes 0xFFF and R102 raises an event, so R302's derived "returns no event" holds
below them only (log 22). -/
def Obligations.SelfJumpIsTheEndOfTheRun : Prop :=
  ∀ (s : State) (a : Addr), s.atEnd a → ∃ t, step s = .next t ∧ t.atEnd a ∧
    (a.toNat ≤ 0xFFD → t.events = [] ∧ Unchanged [.events, .inputs] s t) ∧
    (0xFFE ≤ a.toNat → t.events ≠ [] ∧ t.err = s.err ||| 0b0100 ∧ Unchanged [.err, .events, .inputs] s t)

/-! ### Reset, load and the boot order (70_reset_and_hazards.md) -/

/-- R43, R290: every element after RESET, whatever the state was and whatever FONT is (D11). KEY and ERR are the spec's decisions D12 and D3
(logs 8, 9); the empty event list is the model's choice (log 3), and so is that RESET
keeps the model's own fields cfg, rndIn and draws, which the last clause says (log 29). -/
def Obligations.ResetGivesTheResetState : Prop :=
  ∀ s : State,
    (∀ a : Addr, (h : 0x050 ≤ a.toNat ∧ a.toNat ≤ 0x09F) → s.resetOp.readByte a = s.cfg.font[a.toNat - 0x050]) ∧
    (∀ a : Addr, ¬ (0x050 ≤ a.toNat ∧ a.toNat ≤ 0x09F) → s.resetOp.readByte a = 0) ∧
    (∀ r, s.resetOp.getV r = 0) ∧ s.resetOp.i = 0 ∧ s.resetOp.pc = 0x200 ∧ s.resetOp.sp = 0 ∧
    (∀ d : Fin 16, s.resetOp.stack[d] = 0) ∧ s.resetOp.dt = 0 ∧ s.resetOp.st = 0 ∧ (∀ r c, s.resetOp.pixel r c = false) ∧
    (∀ k : Fin 16, s.resetOp.key[k] = false) ∧ s.resetOp.err = 0 ∧ s.resetOp.events = [] ∧ Unchanged
      [.regs, .index, .pc, .stack, .delay, .sound, .display, .keys, .err, .events, .memory] s s.resetOp

/-- R292: LOAD. 1 to 3584 bytes go to 0x200 and up and nothing else changes; none, or more, change nothing. That LOAD itself checks for
none is the spec's decision D14 (log 17). -/
def Obligations.LoadCopiesTheProgramOrNothing : Prop :=
  ∀ (s : State) (bytes : List Byte),
    (bytes.length = 0 → s.load bytes = (.sourceEmpty, s)) ∧
    (3584 < bytes.length → s.load bytes = (.programTooLarge, s)) ∧
    (1 ≤ bytes.length ∧ bytes.length ≤ 3584 → ∃ t, s.load bytes = (.ok, t) ∧ Unchanged [.memory] s t ∧
      (∀ a : Addr, a.toNat < 0x200 ∨ 0x200 + bytes.length ≤ a.toNat → t.readByte a = s.readByte a) ∧
      ∀ (a : Addr) (h : 0x200 ≤ a.toNat ∧ a.toNat < 0x200 + bytes.length), t.readByte a = bytes[a.toNat - 0x200])

/-- R295: the boot order. Which operations each phase admits, and the phase after; every other operation is refused by name. The order is
the spec's decision D14, D21 (log 17). -/
def Obligations.HostOperationsFollowTheBootOrder : Prop :=
  ∀ (op : HostOp) (h : Session),
    (op.kind = .reset ∨ (op.kind = .load ∧ h.phase = .ready) ∨
        (op.kind ≠ .load ∧ h.phase = .running) → ∃ r k, h.perform op = .next (r, k) ∧
      (op.kind = .reset → k.phase = .ready) ∧
      (op.kind = .load → k.phase = if r = .loaded .ok then .running else .failed) ∧
      (op.kind ≠ .reset ∧ op.kind ≠ .load → k.phase = .running)) ∧
    (¬ (op.kind = .reset ∨ (op.kind = .load ∧ h.phase = .ready) ∨ (op.kind ≠ .load ∧ h.phase = .running)) →
      h.perform op = .refused (.notAdmitted h.phase op.kind))

/-- R34, R40, R41: in the running phase SET_KEYS replaces KEY and nothing else, TICK does what R224 says, and STEP(rnd) returns the
events of its step, which the host also reads. -/
def Obligations.RunningOperationsReplyAsTheInterfaceSays : Prop :=
  ∀ s : State,
    (∀ k, ∃ t, (Session.running s).perform (.setKeys k) = .next (.nothing, .running t) ∧
      (∀ j : Fin 16, t.key[j] = k[j]) ∧ Unchanged [.keys] s t) ∧
    (Session.running s).perform .tick = .next (.nothing, .running s.tick) ∧
    ∀ rnd, ∃ t, stepWith rnd s = .next t ∧
      (Session.running s).perform (.step rnd) = .next (.raised t.hostView.events, .running t)
end

