-- ==== Sys2Proof/Laws/Decode.lean ====
section
/-! SUPPORT. The fields of the words the encoder builds, and where a word's decoding stands by its high nibble. -/

namespace Sys2Proof

@[simp] theorem nibbleOfReg_toNat (x : Reg) : (nibbleOfReg x).toNat = x.val := rfl

/-! ### a word as a number, and its fields as numbers (R81) -/

theorem fieldOp_toNat (w : Word) : (fieldOp w).toNat = w.toNat / 4096 := by
  have := w.isLt
  simp only [fieldOp, BitVec.extractLsb'_toNat, Nat.shiftRight_eq_div_pow]
  omega

theorem fieldX_val (w : Word) : (fieldX w).val = w.toNat / 256 % 16 := by
  show (w.extractLsb' 8 4).toNat = _
  simp [BitVec.extractLsb'_toNat, Nat.shiftRight_eq_div_pow]

theorem fieldY_val (w : Word) : (fieldY w).val = w.toNat / 16 % 16 := by
  show (w.extractLsb' 4 4).toNat = _
  simp [BitVec.extractLsb'_toNat, Nat.shiftRight_eq_div_pow]

theorem fieldN_eq (w : Word) : fieldN w = w.toNat % 16 := by
  simp [fieldN, BitVec.extractLsb'_toNat]

theorem fieldNN_toNat (w : Word) : (fieldNN w).toNat = w.toNat % 256 := by
  simp [fieldNN, BitVec.extractLsb'_toNat]

theorem fieldNNN_toNat (w : Word) : (fieldNNN w).toNat = w.toNat % 4096 := by
  simp [fieldNNN, BitVec.extractLsb'_toNat]

theorem encodeNNN_toNat (op : BitVec 4) (nnn : Addr) : (encodeNNN op nnn).toNat = op.toNat * 4096 + nnn.toNat := by
  have := nnn.isLt
  rw [encodeNNN, BitVec.toNat_append, Nat.shiftLeft_eq, Nat.mul_comm op.toNat, ← Nat.two_pow_add_eq_or_of_lt (by omega)]

theorem encodeXNN_toNat (op : BitVec 4) (x : Reg) (nn : Byte) :
    (encodeXNN op x nn).toNat = op.toNat * 4096 + x.val * 256 + nn.toNat := by
  have := nn.isLt
  have := x.isLt
  rw [encodeXNN, BitVec.toNat_append, BitVec.toNat_append, Nat.shiftLeft_eq, Nat.shiftLeft_eq, nibbleOfReg_toNat,
    Nat.mul_comm x.val, ← Nat.two_pow_add_eq_or_of_lt (by omega), Nat.mul_comm op.toNat,
    ← Nat.two_pow_add_eq_or_of_lt (by omega)]
  omega

theorem encodeXYN_toNat (op : BitVec 4) (x y : Reg) (n : BitVec 4) :
    (encodeXYN op x y n).toNat = op.toNat * 4096 + x.val * 256 + y.val * 16 + n.toNat := by
  have := n.isLt
  have := x.isLt
  have := y.isLt
  rw [encodeXYN, BitVec.toNat_append, BitVec.toNat_append, BitVec.toNat_append, Nat.shiftLeft_eq, Nat.shiftLeft_eq,
    Nat.shiftLeft_eq, nibbleOfReg_toNat, nibbleOfReg_toNat,
    Nat.mul_comm y.val, ← Nat.two_pow_add_eq_or_of_lt (by omega), Nat.mul_comm x.val,
    ← Nat.two_pow_add_eq_or_of_lt (by omega), Nat.mul_comm op.toNat, ← Nat.two_pow_add_eq_or_of_lt (by omega)]
  omega

end Sys2Proof
end

