-- ==== Sys2Proof/Laws/State.lean ====
section
/-! SUPPORT. One lemma per field per update of State, and per accessor an update leaves alone; each by rfl. -/

namespace Sys2Proof.Machine

variable (s : State)

/-! ### raise -/

@[simp] theorem State.raise_cfg (e : Event) : (s.raise e).cfg = s.cfg := rfl
@[simp] theorem State.raise_mem (e : Event) : (s.raise e).mem = s.mem := rfl
@[simp] theorem State.raise_v (e : Event) : (s.raise e).v = s.v := rfl
@[simp] theorem State.raise_i (e : Event) : (s.raise e).i = s.i := rfl
@[simp] theorem State.raise_pc (e : Event) : (s.raise e).pc = s.pc := rfl
@[simp] theorem State.raise_sp (e : Event) : (s.raise e).sp = s.sp := rfl
@[simp] theorem State.raise_stack (e : Event) : (s.raise e).stack = s.stack := rfl
@[simp] theorem State.raise_dt (e : Event) : (s.raise e).dt = s.dt := rfl
@[simp] theorem State.raise_st (e : Event) : (s.raise e).st = s.st := rfl
@[simp] theorem State.raise_fb (e : Event) : (s.raise e).fb = s.fb := rfl
@[simp] theorem State.raise_key (e : Event) : (s.raise e).key = s.key := rfl
@[simp] theorem State.raise_err (e : Event) : (s.raise e).err = s.err ||| e.kind.bit := rfl
@[simp] theorem State.raise_events (e : Event) : (s.raise e).events = s.events ++ [e] := rfl
@[simp] theorem State.raise_rndIn (e : Event) : (s.raise e).rndIn = s.rndIn := rfl
@[simp] theorem State.raise_draws (e : Event) : (s.raise e).draws = s.draws := rfl
@[simp] theorem State.raise_getV (e : Event) (q : Reg) : (s.raise e).getV q = s.getV q := rfl
@[simp] theorem State.raise_pixel (e : Event) (q : Fin 32) (d : Fin 64) : (s.raise e).pixel q d = s.pixel q d := rfl
@[simp] theorem State.raise_readByte (e : Event) (a' : Addr) : (s.raise e).readByte a' = s.readByte a' := rfl
@[simp] theorem State.raise_norm (e : Event) (w : Int) : (s.raise e).norm w = s.norm w := rfl
@[simp] theorem State.raise_rndByte (e : Event) : (s.raise e).rndByte = s.rndByte := rfl
@[simp] theorem State.raise_keyDown (e : Event) (w : Byte) : (s.raise e).keyDown w = s.keyDown w := rfl
@[simp] theorem State.raise_lowestKey (e : Event) : (s.raise e).lowestKey = s.lowestKey := rfl

/-! ### writeByte -/

@[simp] theorem State.writeByte_cfg (a : Addr) (b : Byte) : (s.writeByte a b).cfg = s.cfg := rfl
@[simp] theorem State.writeByte_mem (a : Addr) (b : Byte) : (s.writeByte a b).mem = Memory.write s.cfg.font s.mem a.toNat b := rfl
@[simp] theorem State.writeByte_v (a : Addr) (b : Byte) : (s.writeByte a b).v = s.v := rfl
@[simp] theorem State.writeByte_i (a : Addr) (b : Byte) : (s.writeByte a b).i = s.i := rfl
@[simp] theorem State.writeByte_pc (a : Addr) (b : Byte) : (s.writeByte a b).pc = s.pc := rfl
@[simp] theorem State.writeByte_sp (a : Addr) (b : Byte) : (s.writeByte a b).sp = s.sp := rfl
@[simp] theorem State.writeByte_stack (a : Addr) (b : Byte) : (s.writeByte a b).stack = s.stack := rfl
@[simp] theorem State.writeByte_dt (a : Addr) (b : Byte) : (s.writeByte a b).dt = s.dt := rfl
@[simp] theorem State.writeByte_st (a : Addr) (b : Byte) : (s.writeByte a b).st = s.st := rfl
@[simp] theorem State.writeByte_fb (a : Addr) (b : Byte) : (s.writeByte a b).fb = s.fb := rfl
@[simp] theorem State.writeByte_key (a : Addr) (b : Byte) : (s.writeByte a b).key = s.key := rfl
@[simp] theorem State.writeByte_err (a : Addr) (b : Byte) : (s.writeByte a b).err = s.err := rfl
@[simp] theorem State.writeByte_events (a : Addr) (b : Byte) : (s.writeByte a b).events = s.events := rfl
@[simp] theorem State.writeByte_rndIn (a : Addr) (b : Byte) : (s.writeByte a b).rndIn = s.rndIn := rfl
@[simp] theorem State.writeByte_draws (a : Addr) (b : Byte) : (s.writeByte a b).draws = s.draws := rfl
@[simp] theorem State.writeByte_getV (a : Addr) (b : Byte) (q : Reg) : (s.writeByte a b).getV q = s.getV q := rfl
@[simp] theorem State.writeByte_pixel (a : Addr) (b : Byte) (q : Fin 32) (d : Fin 64) : (s.writeByte a b).pixel q d = s.pixel q d := rfl
@[simp] theorem State.writeByte_norm (a : Addr) (b : Byte) (w : Int) : (s.writeByte a b).norm w = s.norm w := rfl
@[simp] theorem State.writeByte_rndByte (a : Addr) (b : Byte) : (s.writeByte a b).rndByte = s.rndByte := rfl
@[simp] theorem State.writeByte_keyDown (a : Addr) (b : Byte) (w : Byte) : (s.writeByte a b).keyDown w = s.keyDown w := rfl
@[simp] theorem State.writeByte_lowestKey (a : Addr) (b : Byte) : (s.writeByte a b).lowestKey = s.lowestKey := rfl

/-! ### setV -/

@[simp] theorem State.setV_cfg (x : Reg) (b : Byte) : (s.setV x b).cfg = s.cfg := rfl
@[simp] theorem State.setV_mem (x : Reg) (b : Byte) : (s.setV x b).mem = s.mem := rfl
@[simp] theorem State.setV_v (x : Reg) (b : Byte) : (s.setV x b).v = s.v.set x.val b x.isLt := rfl
@[simp] theorem State.setV_i (x : Reg) (b : Byte) : (s.setV x b).i = s.i := rfl
@[simp] theorem State.setV_pc (x : Reg) (b : Byte) : (s.setV x b).pc = s.pc := rfl
@[simp] theorem State.setV_sp (x : Reg) (b : Byte) : (s.setV x b).sp = s.sp := rfl
@[simp] theorem State.setV_stack (x : Reg) (b : Byte) : (s.setV x b).stack = s.stack := rfl
@[simp] theorem State.setV_dt (x : Reg) (b : Byte) : (s.setV x b).dt = s.dt := rfl
@[simp] theorem State.setV_st (x : Reg) (b : Byte) : (s.setV x b).st = s.st := rfl
@[simp] theorem State.setV_fb (x : Reg) (b : Byte) : (s.setV x b).fb = s.fb := rfl
@[simp] theorem State.setV_key (x : Reg) (b : Byte) : (s.setV x b).key = s.key := rfl
@[simp] theorem State.setV_err (x : Reg) (b : Byte) : (s.setV x b).err = s.err := rfl
@[simp] theorem State.setV_events (x : Reg) (b : Byte) : (s.setV x b).events = s.events := rfl
@[simp] theorem State.setV_rndIn (x : Reg) (b : Byte) : (s.setV x b).rndIn = s.rndIn := rfl
@[simp] theorem State.setV_draws (x : Reg) (b : Byte) : (s.setV x b).draws = s.draws := rfl
@[simp] theorem State.setV_pixel (x : Reg) (b : Byte) (q : Fin 32) (d : Fin 64) : (s.setV x b).pixel q d = s.pixel q d := rfl
@[simp] theorem State.setV_readByte (x : Reg) (b : Byte) (a' : Addr) : (s.setV x b).readByte a' = s.readByte a' := rfl
@[simp] theorem State.setV_norm (x : Reg) (b : Byte) (w : Int) : (s.setV x b).norm w = s.norm w := rfl
@[simp] theorem State.setV_rndByte (x : Reg) (b : Byte) : (s.setV x b).rndByte = s.rndByte := rfl
@[simp] theorem State.setV_keyDown (x : Reg) (b : Byte) (w : Byte) : (s.setV x b).keyDown w = s.keyDown w := rfl
@[simp] theorem State.setV_lowestKey (x : Reg) (b : Byte) : (s.setV x b).lowestKey = s.lowestKey := rfl

/-! ### setI -/

@[simp] theorem State.setI_cfg (a : Addr) : (s.setI a).cfg = s.cfg := rfl
@[simp] theorem State.setI_mem (a : Addr) : (s.setI a).mem = s.mem := rfl
@[simp] theorem State.setI_v (a : Addr) : (s.setI a).v = s.v := rfl
@[simp] theorem State.setI_i (a : Addr) : (s.setI a).i = a := rfl
@[simp] theorem State.setI_pc (a : Addr) : (s.setI a).pc = s.pc := rfl
@[simp] theorem State.setI_sp (a : Addr) : (s.setI a).sp = s.sp := rfl
@[simp] theorem State.setI_stack (a : Addr) : (s.setI a).stack = s.stack := rfl
@[simp] theorem State.setI_dt (a : Addr) : (s.setI a).dt = s.dt := rfl
@[simp] theorem State.setI_st (a : Addr) : (s.setI a).st = s.st := rfl
@[simp] theorem State.setI_fb (a : Addr) : (s.setI a).fb = s.fb := rfl
@[simp] theorem State.setI_key (a : Addr) : (s.setI a).key = s.key := rfl
@[simp] theorem State.setI_err (a : Addr) : (s.setI a).err = s.err := rfl
@[simp] theorem State.setI_events (a : Addr) : (s.setI a).events = s.events := rfl
@[simp] theorem State.setI_rndIn (a : Addr) : (s.setI a).rndIn = s.rndIn := rfl
@[simp] theorem State.setI_draws (a : Addr) : (s.setI a).draws = s.draws := rfl
@[simp] theorem State.setI_getV (a : Addr) (q : Reg) : (s.setI a).getV q = s.getV q := rfl
@[simp] theorem State.setI_pixel (a : Addr) (q : Fin 32) (d : Fin 64) : (s.setI a).pixel q d = s.pixel q d := rfl
@[simp] theorem State.setI_readByte (a : Addr) (a' : Addr) : (s.setI a).readByte a' = s.readByte a' := rfl
@[simp] theorem State.setI_norm (a : Addr) (w : Int) : (s.setI a).norm w = s.norm w := rfl
@[simp] theorem State.setI_rndByte (a : Addr) : (s.setI a).rndByte = s.rndByte := rfl
@[simp] theorem State.setI_keyDown (a : Addr) (w : Byte) : (s.setI a).keyDown w = s.keyDown w := rfl
@[simp] theorem State.setI_lowestKey (a : Addr) : (s.setI a).lowestKey = s.lowestKey := rfl

/-! ### setPC -/

@[simp] theorem State.setPC_cfg (a : Addr) : (s.setPC a).cfg = s.cfg := rfl
@[simp] theorem State.setPC_mem (a : Addr) : (s.setPC a).mem = s.mem := rfl
@[simp] theorem State.setPC_v (a : Addr) : (s.setPC a).v = s.v := rfl
@[simp] theorem State.setPC_i (a : Addr) : (s.setPC a).i = s.i := rfl
@[simp] theorem State.setPC_pc (a : Addr) : (s.setPC a).pc = a := rfl
@[simp] theorem State.setPC_sp (a : Addr) : (s.setPC a).sp = s.sp := rfl
@[simp] theorem State.setPC_stack (a : Addr) : (s.setPC a).stack = s.stack := rfl
@[simp] theorem State.setPC_dt (a : Addr) : (s.setPC a).dt = s.dt := rfl
@[simp] theorem State.setPC_st (a : Addr) : (s.setPC a).st = s.st := rfl
@[simp] theorem State.setPC_fb (a : Addr) : (s.setPC a).fb = s.fb := rfl
@[simp] theorem State.setPC_key (a : Addr) : (s.setPC a).key = s.key := rfl
@[simp] theorem State.setPC_err (a : Addr) : (s.setPC a).err = s.err := rfl
@[simp] theorem State.setPC_events (a : Addr) : (s.setPC a).events = s.events := rfl
@[simp] theorem State.setPC_rndIn (a : Addr) : (s.setPC a).rndIn = s.rndIn := rfl
@[simp] theorem State.setPC_draws (a : Addr) : (s.setPC a).draws = s.draws := rfl
@[simp] theorem State.setPC_getV (a : Addr) (q : Reg) : (s.setPC a).getV q = s.getV q := rfl
@[simp] theorem State.setPC_pixel (a : Addr) (q : Fin 32) (d : Fin 64) : (s.setPC a).pixel q d = s.pixel q d := rfl
@[simp] theorem State.setPC_readByte (a : Addr) (a' : Addr) : (s.setPC a).readByte a' = s.readByte a' := rfl
@[simp] theorem State.setPC_norm (a : Addr) (w : Int) : (s.setPC a).norm w = s.norm w := rfl
@[simp] theorem State.setPC_rndByte (a : Addr) : (s.setPC a).rndByte = s.rndByte := rfl
@[simp] theorem State.setPC_keyDown (a : Addr) (w : Byte) : (s.setPC a).keyDown w = s.keyDown w := rfl
@[simp] theorem State.setPC_lowestKey (a : Addr) : (s.setPC a).lowestKey = s.lowestKey := rfl

/-! ### setDT -/

@[simp] theorem State.setDT_cfg (b : Byte) : (s.setDT b).cfg = s.cfg := rfl
@[simp] theorem State.setDT_mem (b : Byte) : (s.setDT b).mem = s.mem := rfl
@[simp] theorem State.setDT_v (b : Byte) : (s.setDT b).v = s.v := rfl
@[simp] theorem State.setDT_i (b : Byte) : (s.setDT b).i = s.i := rfl
@[simp] theorem State.setDT_pc (b : Byte) : (s.setDT b).pc = s.pc := rfl
@[simp] theorem State.setDT_sp (b : Byte) : (s.setDT b).sp = s.sp := rfl
@[simp] theorem State.setDT_stack (b : Byte) : (s.setDT b).stack = s.stack := rfl
@[simp] theorem State.setDT_dt (b : Byte) : (s.setDT b).dt = b := rfl
@[simp] theorem State.setDT_st (b : Byte) : (s.setDT b).st = s.st := rfl
@[simp] theorem State.setDT_fb (b : Byte) : (s.setDT b).fb = s.fb := rfl
@[simp] theorem State.setDT_key (b : Byte) : (s.setDT b).key = s.key := rfl
@[simp] theorem State.setDT_err (b : Byte) : (s.setDT b).err = s.err := rfl
@[simp] theorem State.setDT_events (b : Byte) : (s.setDT b).events = s.events := rfl
@[simp] theorem State.setDT_rndIn (b : Byte) : (s.setDT b).rndIn = s.rndIn := rfl
@[simp] theorem State.setDT_draws (b : Byte) : (s.setDT b).draws = s.draws := rfl
@[simp] theorem State.setDT_getV (b : Byte) (q : Reg) : (s.setDT b).getV q = s.getV q := rfl
@[simp] theorem State.setDT_pixel (b : Byte) (q : Fin 32) (d : Fin 64) : (s.setDT b).pixel q d = s.pixel q d := rfl
@[simp] theorem State.setDT_readByte (b : Byte) (a' : Addr) : (s.setDT b).readByte a' = s.readByte a' := rfl
@[simp] theorem State.setDT_norm (b : Byte) (w : Int) : (s.setDT b).norm w = s.norm w := rfl
@[simp] theorem State.setDT_rndByte (b : Byte) : (s.setDT b).rndByte = s.rndByte := rfl
@[simp] theorem State.setDT_keyDown (b : Byte) (w : Byte) : (s.setDT b).keyDown w = s.keyDown w := rfl
@[simp] theorem State.setDT_lowestKey (b : Byte) : (s.setDT b).lowestKey = s.lowestKey := rfl

/-! ### setST -/

@[simp] theorem State.setST_cfg (b : Byte) : (s.setST b).cfg = s.cfg := rfl
@[simp] theorem State.setST_mem (b : Byte) : (s.setST b).mem = s.mem := rfl
@[simp] theorem State.setST_v (b : Byte) : (s.setST b).v = s.v := rfl
@[simp] theorem State.setST_i (b : Byte) : (s.setST b).i = s.i := rfl
@[simp] theorem State.setST_pc (b : Byte) : (s.setST b).pc = s.pc := rfl
@[simp] theorem State.setST_sp (b : Byte) : (s.setST b).sp = s.sp := rfl
@[simp] theorem State.setST_stack (b : Byte) : (s.setST b).stack = s.stack := rfl
@[simp] theorem State.setST_dt (b : Byte) : (s.setST b).dt = s.dt := rfl
@[simp] theorem State.setST_st (b : Byte) : (s.setST b).st = b := rfl
@[simp] theorem State.setST_fb (b : Byte) : (s.setST b).fb = s.fb := rfl
@[simp] theorem State.setST_key (b : Byte) : (s.setST b).key = s.key := rfl
@[simp] theorem State.setST_err (b : Byte) : (s.setST b).err = s.err := rfl
@[simp] theorem State.setST_events (b : Byte) : (s.setST b).events = s.events := rfl
@[simp] theorem State.setST_rndIn (b : Byte) : (s.setST b).rndIn = s.rndIn := rfl
@[simp] theorem State.setST_draws (b : Byte) : (s.setST b).draws = s.draws := rfl
@[simp] theorem State.setST_getV (b : Byte) (q : Reg) : (s.setST b).getV q = s.getV q := rfl
@[simp] theorem State.setST_pixel (b : Byte) (q : Fin 32) (d : Fin 64) : (s.setST b).pixel q d = s.pixel q d := rfl
@[simp] theorem State.setST_readByte (b : Byte) (a' : Addr) : (s.setST b).readByte a' = s.readByte a' := rfl
@[simp] theorem State.setST_norm (b : Byte) (w : Int) : (s.setST b).norm w = s.norm w := rfl
@[simp] theorem State.setST_rndByte (b : Byte) : (s.setST b).rndByte = s.rndByte := rfl
@[simp] theorem State.setST_keyDown (b : Byte) (w : Byte) : (s.setST b).keyDown w = s.keyDown w := rfl
@[simp] theorem State.setST_lowestKey (b : Byte) : (s.setST b).lowestKey = s.lowestKey := rfl

/-! ### setPixel -/

@[simp] theorem State.setPixel_cfg (r : Fin 32) (c : Fin 64) (b : Bool) : (s.setPixel r c b).cfg = s.cfg := rfl
@[simp] theorem State.setPixel_mem (r : Fin 32) (c : Fin 64) (b : Bool) : (s.setPixel r c b).mem = s.mem := rfl
@[simp] theorem State.setPixel_v (r : Fin 32) (c : Fin 64) (b : Bool) : (s.setPixel r c b).v = s.v := rfl
@[simp] theorem State.setPixel_i (r : Fin 32) (c : Fin 64) (b : Bool) : (s.setPixel r c b).i = s.i := rfl
@[simp] theorem State.setPixel_pc (r : Fin 32) (c : Fin 64) (b : Bool) : (s.setPixel r c b).pc = s.pc := rfl
@[simp] theorem State.setPixel_sp (r : Fin 32) (c : Fin 64) (b : Bool) : (s.setPixel r c b).sp = s.sp := rfl
@[simp] theorem State.setPixel_stack (r : Fin 32) (c : Fin 64) (b : Bool) : (s.setPixel r c b).stack = s.stack := rfl
@[simp] theorem State.setPixel_dt (r : Fin 32) (c : Fin 64) (b : Bool) : (s.setPixel r c b).dt = s.dt := rfl
@[simp] theorem State.setPixel_st (r : Fin 32) (c : Fin 64) (b : Bool) : (s.setPixel r c b).st = s.st := rfl
@[simp] theorem State.setPixel_fb (r : Fin 32) (c : Fin 64) (b : Bool) : (s.setPixel r c b).fb = s.fb.set r.val (s.fb[r].set c.val b c.isLt) r.isLt := rfl
@[simp] theorem State.setPixel_key (r : Fin 32) (c : Fin 64) (b : Bool) : (s.setPixel r c b).key = s.key := rfl
@[simp] theorem State.setPixel_err (r : Fin 32) (c : Fin 64) (b : Bool) : (s.setPixel r c b).err = s.err := rfl
@[simp] theorem State.setPixel_events (r : Fin 32) (c : Fin 64) (b : Bool) : (s.setPixel r c b).events = s.events := rfl
@[simp] theorem State.setPixel_rndIn (r : Fin 32) (c : Fin 64) (b : Bool) : (s.setPixel r c b).rndIn = s.rndIn := rfl
@[simp] theorem State.setPixel_draws (r : Fin 32) (c : Fin 64) (b : Bool) : (s.setPixel r c b).draws = s.draws := rfl
@[simp] theorem State.setPixel_getV (r : Fin 32) (c : Fin 64) (b : Bool) (q : Reg) : (s.setPixel r c b).getV q = s.getV q := rfl
@[simp] theorem State.setPixel_readByte (r : Fin 32) (c : Fin 64) (b : Bool) (a' : Addr) : (s.setPixel r c b).readByte a' = s.readByte a' := rfl
@[simp] theorem State.setPixel_norm (r : Fin 32) (c : Fin 64) (b : Bool) (w : Int) : (s.setPixel r c b).norm w = s.norm w := rfl
@[simp] theorem State.setPixel_rndByte (r : Fin 32) (c : Fin 64) (b : Bool) : (s.setPixel r c b).rndByte = s.rndByte := rfl
@[simp] theorem State.setPixel_keyDown (r : Fin 32) (c : Fin 64) (b : Bool) (w : Byte) : (s.setPixel r c b).keyDown w = s.keyDown w := rfl
@[simp] theorem State.setPixel_lowestKey (r : Fin 32) (c : Fin 64) (b : Bool) : (s.setPixel r c b).lowestKey = s.lowestKey := rfl

/-! ### clearFB -/

@[simp] theorem State.clearFB_cfg : s.clearFB.cfg = s.cfg := rfl
@[simp] theorem State.clearFB_mem : s.clearFB.mem = s.mem := rfl
@[simp] theorem State.clearFB_v : s.clearFB.v = s.v := rfl
@[simp] theorem State.clearFB_i : s.clearFB.i = s.i := rfl
@[simp] theorem State.clearFB_pc : s.clearFB.pc = s.pc := rfl
@[simp] theorem State.clearFB_sp : s.clearFB.sp = s.sp := rfl
@[simp] theorem State.clearFB_stack : s.clearFB.stack = s.stack := rfl
@[simp] theorem State.clearFB_dt : s.clearFB.dt = s.dt := rfl
@[simp] theorem State.clearFB_st : s.clearFB.st = s.st := rfl
@[simp] theorem State.clearFB_fb : s.clearFB.fb = Vector.replicate 32 (Vector.replicate 64 false) := rfl
@[simp] theorem State.clearFB_key : s.clearFB.key = s.key := rfl
@[simp] theorem State.clearFB_err : s.clearFB.err = s.err := rfl
@[simp] theorem State.clearFB_events : s.clearFB.events = s.events := rfl
@[simp] theorem State.clearFB_rndIn : s.clearFB.rndIn = s.rndIn := rfl
@[simp] theorem State.clearFB_draws : s.clearFB.draws = s.draws := rfl
@[simp] theorem State.clearFB_getV (q : Reg) : s.clearFB.getV q = s.getV q := rfl
@[simp] theorem State.clearFB_readByte (a' : Addr) : s.clearFB.readByte a' = s.readByte a' := rfl
@[simp] theorem State.clearFB_norm (w : Int) : s.clearFB.norm w = s.norm w := rfl
@[simp] theorem State.clearFB_rndByte : s.clearFB.rndByte = s.rndByte := rfl
@[simp] theorem State.clearFB_keyDown (w : Byte) : s.clearFB.keyDown w = s.keyDown w := rfl
@[simp] theorem State.clearFB_lowestKey : s.clearFB.lowestKey = s.lowestKey := rfl

/-! ### consumeRnd -/

@[simp] theorem State.consumeRnd_cfg : s.consumeRnd.cfg = s.cfg := rfl
@[simp] theorem State.consumeRnd_mem : s.consumeRnd.mem = s.mem := rfl
@[simp] theorem State.consumeRnd_v : s.consumeRnd.v = s.v := rfl
@[simp] theorem State.consumeRnd_i : s.consumeRnd.i = s.i := rfl
@[simp] theorem State.consumeRnd_pc : s.consumeRnd.pc = s.pc := rfl
@[simp] theorem State.consumeRnd_sp : s.consumeRnd.sp = s.sp := rfl
@[simp] theorem State.consumeRnd_stack : s.consumeRnd.stack = s.stack := rfl
@[simp] theorem State.consumeRnd_dt : s.consumeRnd.dt = s.dt := rfl
@[simp] theorem State.consumeRnd_st : s.consumeRnd.st = s.st := rfl
@[simp] theorem State.consumeRnd_fb : s.consumeRnd.fb = s.fb := rfl
@[simp] theorem State.consumeRnd_key : s.consumeRnd.key = s.key := rfl
@[simp] theorem State.consumeRnd_err : s.consumeRnd.err = s.err := rfl
@[simp] theorem State.consumeRnd_events : s.consumeRnd.events = s.events := rfl
@[simp] theorem State.consumeRnd_rndIn : s.consumeRnd.rndIn = s.rndIn.tail := rfl
@[simp] theorem State.consumeRnd_draws : s.consumeRnd.draws = s.draws + 1 := rfl
@[simp] theorem State.consumeRnd_getV (q : Reg) : s.consumeRnd.getV q = s.getV q := rfl
@[simp] theorem State.consumeRnd_pixel (q : Fin 32) (d : Fin 64) : s.consumeRnd.pixel q d = s.pixel q d := rfl
@[simp] theorem State.consumeRnd_readByte (a' : Addr) : s.consumeRnd.readByte a' = s.readByte a' := rfl
@[simp] theorem State.consumeRnd_norm (w : Int) : s.consumeRnd.norm w = s.norm w := rfl
@[simp] theorem State.consumeRnd_keyDown (w : Byte) : s.consumeRnd.keyDown w = s.keyDown w := rfl
@[simp] theorem State.consumeRnd_lowestKey : s.consumeRnd.lowestKey = s.lowestKey := rfl

/-! ### tick -/

@[simp] theorem State.tick_cfg : s.tick.cfg = s.cfg := rfl
@[simp] theorem State.tick_mem : s.tick.mem = s.mem := rfl
@[simp] theorem State.tick_v : s.tick.v = s.v := rfl
@[simp] theorem State.tick_i : s.tick.i = s.i := rfl
@[simp] theorem State.tick_pc : s.tick.pc = s.pc := rfl
@[simp] theorem State.tick_sp : s.tick.sp = s.sp := rfl
@[simp] theorem State.tick_stack : s.tick.stack = s.stack := rfl
@[simp] theorem State.tick_dt : s.tick.dt = countDown s.dt := rfl
@[simp] theorem State.tick_st : s.tick.st = countDown s.st := rfl
@[simp] theorem State.tick_fb : s.tick.fb = s.fb := rfl
@[simp] theorem State.tick_key : s.tick.key = s.key := rfl
@[simp] theorem State.tick_err : s.tick.err = s.err := rfl
@[simp] theorem State.tick_events : s.tick.events = s.events := rfl
@[simp] theorem State.tick_rndIn : s.tick.rndIn = s.rndIn := rfl
@[simp] theorem State.tick_draws : s.tick.draws = s.draws := rfl
@[simp] theorem State.tick_getV (q : Reg) : s.tick.getV q = s.getV q := rfl
@[simp] theorem State.tick_pixel (q : Fin 32) (d : Fin 64) : s.tick.pixel q d = s.pixel q d := rfl
@[simp] theorem State.tick_readByte (a' : Addr) : s.tick.readByte a' = s.readByte a' := rfl
@[simp] theorem State.tick_norm (w : Int) : s.tick.norm w = s.norm w := rfl
@[simp] theorem State.tick_rndByte : s.tick.rndByte = s.rndByte := rfl
@[simp] theorem State.tick_keyDown (w : Byte) : s.tick.keyDown w = s.keyDown w := rfl
@[simp] theorem State.tick_lowestKey : s.tick.lowestKey = s.lowestKey := rfl

/-! ### setKeys -/

@[simp] theorem State.setKeys_cfg (k : Vector Bool 16) : (s.setKeys k).cfg = s.cfg := rfl
@[simp] theorem State.setKeys_mem (k : Vector Bool 16) : (s.setKeys k).mem = s.mem := rfl
@[simp] theorem State.setKeys_v (k : Vector Bool 16) : (s.setKeys k).v = s.v := rfl
@[simp] theorem State.setKeys_i (k : Vector Bool 16) : (s.setKeys k).i = s.i := rfl
@[simp] theorem State.setKeys_pc (k : Vector Bool 16) : (s.setKeys k).pc = s.pc := rfl
@[simp] theorem State.setKeys_sp (k : Vector Bool 16) : (s.setKeys k).sp = s.sp := rfl
@[simp] theorem State.setKeys_stack (k : Vector Bool 16) : (s.setKeys k).stack = s.stack := rfl
@[simp] theorem State.setKeys_dt (k : Vector Bool 16) : (s.setKeys k).dt = s.dt := rfl
@[simp] theorem State.setKeys_st (k : Vector Bool 16) : (s.setKeys k).st = s.st := rfl
@[simp] theorem State.setKeys_fb (k : Vector Bool 16) : (s.setKeys k).fb = s.fb := rfl
@[simp] theorem State.setKeys_key (k : Vector Bool 16) : (s.setKeys k).key = k := rfl
@[simp] theorem State.setKeys_err (k : Vector Bool 16) : (s.setKeys k).err = s.err := rfl
@[simp] theorem State.setKeys_events (k : Vector Bool 16) : (s.setKeys k).events = s.events := rfl
@[simp] theorem State.setKeys_rndIn (k : Vector Bool 16) : (s.setKeys k).rndIn = s.rndIn := rfl
@[simp] theorem State.setKeys_draws (k : Vector Bool 16) : (s.setKeys k).draws = s.draws := rfl
@[simp] theorem State.setKeys_getV (k : Vector Bool 16) (q : Reg) : (s.setKeys k).getV q = s.getV q := rfl
@[simp] theorem State.setKeys_pixel (k : Vector Bool 16) (q : Fin 32) (d : Fin 64) : (s.setKeys k).pixel q d = s.pixel q d := rfl
@[simp] theorem State.setKeys_readByte (k : Vector Bool 16) (a' : Addr) : (s.setKeys k).readByte a' = s.readByte a' := rfl
@[simp] theorem State.setKeys_norm (k : Vector Bool 16) (w : Int) : (s.setKeys k).norm w = s.norm w := rfl
@[simp] theorem State.setKeys_rndByte (k : Vector Bool 16) : (s.setKeys k).rndByte = s.rndByte := rfl

/-! ### resetOp -/

@[simp] theorem State.resetOp_cfg : s.resetOp.cfg = s.cfg := rfl
@[simp] theorem State.resetOp_mem : s.resetOp.mem = [] := rfl
@[simp] theorem State.resetOp_v : s.resetOp.v = Vector.replicate 16 0 := rfl
@[simp] theorem State.resetOp_i : s.resetOp.i = 0 := rfl
@[simp] theorem State.resetOp_pc : s.resetOp.pc = Config.pcReset := rfl
@[simp] theorem State.resetOp_sp : s.resetOp.sp = 0 := rfl
@[simp] theorem State.resetOp_stack : s.resetOp.stack = Vector.replicate 16 0 := rfl
@[simp] theorem State.resetOp_dt : s.resetOp.dt = 0 := rfl
@[simp] theorem State.resetOp_st : s.resetOp.st = 0 := rfl
@[simp] theorem State.resetOp_fb : s.resetOp.fb = Vector.replicate 32 (Vector.replicate 64 false) := rfl
@[simp] theorem State.resetOp_key : s.resetOp.key = Vector.replicate 16 false := rfl
@[simp] theorem State.resetOp_err : s.resetOp.err = 0 := rfl
@[simp] theorem State.resetOp_events : s.resetOp.events = [] := rfl
@[simp] theorem State.resetOp_rndIn : s.resetOp.rndIn = s.rndIn := rfl
@[simp] theorem State.resetOp_draws : s.resetOp.draws = s.draws := rfl
@[simp] theorem State.resetOp_norm (w : Int) : s.resetOp.norm w = s.norm w := rfl
@[simp] theorem State.resetOp_rndByte : s.resetOp.rndByte = s.rndByte := rfl

end Sys2Proof.Machine
end

