-- ==== Sys2Proof/Laws/Memory.lean ====
section
/-! SUPPORT. The laws of memory: read after write, and that every memory operation keeps the canonical form. -/

namespace Sys2Proof.Machine

variable {font : Vector Byte 80} {m : Memory} {a a' : Nat} {b : Byte}

/-! ### What the canonical form says -/

theorem Memory.wf_cons {c : Host.Cell} {rest : Memory} :
    Memory.wf font (c :: rest) = true ↔
      c.1 < 4096 ∧ c.2 ≠ unlisted font c.1 ∧ (∀ d ∈ rest, c.1 < d.1) ∧ Memory.wf font rest = true := by
  simp [Memory.wf, and_assoc]

@[simp] theorem Memory.wf_nil : Memory.wf font [] = true := rfl

/-- An address below every listed one reads as unlisted. -/
theorem Memory.read_of_lt (h : ∀ d ∈ m, a < d.1) : Memory.read font m a = unlisted font a := by
  induction m with
  | nil => rfl
  | cons c rest ih =>
    have hc := h c (by simp)
    rw [Memory.read, if_neg (by omega), ih (fun d hd => h d (by simp [hd]))]

/-! ### erase -/

theorem Memory.mem_of_mem_erase {d : Host.Cell} (h : d ∈ Memory.erase m a) : d ∈ m := by
  induction m with
  | nil => simp [Memory.erase] at h
  | cons c rest ih =>
    rw [Memory.erase] at h
    split at h
    · exact List.mem_cons_of_mem _ (ih h)
    · rcases List.mem_cons.mp h with rfl | h
      · simp
      · exact List.mem_cons_of_mem _ (ih h)

theorem Memory.erase_wf (h : Memory.wf font m = true) : Memory.wf font (Memory.erase m a) = true := by
  induction m with
  | nil => rfl
  | cons c rest ih =>
    obtain ⟨h1, h2, h3, h4⟩ := Memory.wf_cons.mp h
    rw [Memory.erase]
    split
    · exact ih h4
    · exact Memory.wf_cons.mpr ⟨h1, h2, fun d hd => h3 d (Memory.mem_of_mem_erase hd), ih h4⟩

theorem Memory.read_erase_self : Memory.read font (Memory.erase m a) a = unlisted font a := by
  induction m with
  | nil => rfl
  | cons c rest ih =>
    rw [Memory.erase]
    split
    · exact ih
    · rename_i hc
      rw [Memory.read, if_neg hc, ih]

theorem Memory.read_erase_ne (h : a' ≠ a) :
    Memory.read font (Memory.erase m a) a' = Memory.read font m a' := by
  induction m with
  | nil => rfl
  | cons c rest ih =>
    rw [Memory.erase]
    split
    · rename_i hc
      rw [Memory.read, if_neg (by omega), ih]
    · rw [Memory.read, Memory.read, ih]

/-! ### insert -/

theorem Memory.mem_of_mem_insert {d : Host.Cell} (h : d ∈ Memory.insert m a b) : d = (a, b) ∨ d ∈ m := by
  induction m with
  | nil => simpa [Memory.insert] using h
  | cons c rest ih =>
    rw [Memory.insert] at h
    split at h
    · simpa using h
    · split at h
      · rcases List.mem_cons.mp h with h | h
        · exact .inl h
        · exact .inr (List.mem_cons_of_mem _ h)
      · rcases List.mem_cons.mp h with rfl | h
        · simp
        · exact (ih h).imp_right (List.mem_cons_of_mem _)

theorem Memory.insert_wf (h : Memory.wf font m = true) (ha : a < 4096) (hb : b ≠ unlisted font a) :
    Memory.wf font (Memory.insert m a b) = true := by
  induction m with
  | nil => exact Memory.wf_cons.mpr ⟨ha, hb, by simp, rfl⟩
  | cons c rest ih =>
    obtain ⟨h1, h2, h3, h4⟩ := Memory.wf_cons.mp h
    rw [Memory.insert]
    split
    · rename_i hlt
      refine Memory.wf_cons.mpr ⟨ha, hb, fun d hd => ?_, h⟩
      rcases List.mem_cons.mp hd with rfl | hd
      · exact hlt
      · exact Nat.lt_trans hlt (h3 d hd)
    · split
      · rename_i hc
        exact Memory.wf_cons.mpr ⟨ha, hb, fun d hd => hc ▸ h3 d hd, h4⟩
      · refine Memory.wf_cons.mpr ⟨h1, h2, fun d hd => ?_, ih h4⟩
        rcases Memory.mem_of_mem_insert hd with rfl | hd
        · show c.1 < a
          omega
        · exact h3 d hd

theorem Memory.read_insert_self : Memory.read font (Memory.insert m a b) a = b := by
  induction m with
  | nil => simp [Memory.insert, Memory.read]
  | cons c rest ih =>
    rw [Memory.insert]
    split
    · simp [Memory.read]
    · split
      · simp [Memory.read]
      · rename_i hc
        rw [Memory.read, if_neg hc, ih]

theorem Memory.read_insert_ne (h : a' ≠ a) :
    Memory.read font (Memory.insert m a b) a' = Memory.read font m a' := by
  induction m with
  | nil => simp [Memory.insert, Memory.read, h.symm]
  | cons c rest ih =>
    rw [Memory.insert]
    split
    · rw [Memory.read, if_neg h.symm]
    · split
      · rename_i hc
        rw [Memory.read, Memory.read, if_neg h.symm, if_neg (by omega)]
      · rw [Memory.read, Memory.read, ih]

/-! ### write -/

/-- A write keeps the canonical form. -/
theorem Memory.write_wf (h : Memory.wf font m = true) (ha : a < 4096) :
    Memory.wf font (Memory.write font m a b) = true := by
  rw [Memory.write]
  split
  · exact Memory.erase_wf h
  · exact Memory.insert_wf h ha ‹_›

/-- Read after write, at the written address; in every memory, canonical or not. -/
theorem Memory.read_write_self : Memory.read font (Memory.write font m a b) a = b := by
  rw [Memory.write]
  split
  · rename_i hb
    rw [Memory.read_erase_self, hb]
  · exact Memory.read_insert_self

/-- A write leaves every other address alone. -/
theorem Memory.read_write_ne (h : a' ≠ a) :
    Memory.read font (Memory.write font m a b) a' = Memory.read font m a' := by
  rw [Memory.write]
  split
  · exact Memory.read_erase_ne h
  · exact Memory.read_insert_ne h

/-! ### The same for the state -/

variable {s : State} {p q : Addr}

theorem State.writeByte_wf (h : Memory.wf s.cfg.font s.mem = true) :
    Memory.wf (s.writeByte p b).cfg.font (s.writeByte p b).mem = true :=
  Memory.write_wf h p.isLt

@[simp] theorem State.readByte_writeByte_self : (s.writeByte p b).readByte p = b :=
  Memory.read_write_self

theorem State.readByte_writeByte_ne (h : q ≠ p) : (s.writeByte p b).readByte q = s.readByte q :=
  Memory.read_write_ne (fun e => h (BitVec.eq_of_toNat_eq e))

theorem State.readByte_writeByte : (s.writeByte p b).readByte q = if q = p then b else s.readByte q := by
  split
  · rename_i h
    rw [h, State.readByte_writeByte_self]
  · exact State.readByte_writeByte_ne ‹_›

end Sys2Proof.Machine
end

