-- ==== Sys2Proof/Laws/Ops.lean ====
section
/-! SUPPORT. What each shared operation can do, said once: events, addr(), registers, framebuffer, stack, and the loops over bytes and registers. -/

namespace Sys2Proof.Machine

section
variable (s : State)

/-! ### noteAddr: nothing but err and events changes -/

@[simp] theorem State.noteAddr_cfg (v : Int) : (s.noteAddr v).cfg = s.cfg := by unfold State.noteAddr; split <;> rfl
@[simp] theorem State.noteAddr_mem (v : Int) : (s.noteAddr v).mem = s.mem := by unfold State.noteAddr; split <;> rfl
@[simp] theorem State.noteAddr_v (v : Int) : (s.noteAddr v).v = s.v := by unfold State.noteAddr; split <;> rfl
@[simp] theorem State.noteAddr_i (v : Int) : (s.noteAddr v).i = s.i := by unfold State.noteAddr; split <;> rfl
@[simp] theorem State.noteAddr_pc (v : Int) : (s.noteAddr v).pc = s.pc := by unfold State.noteAddr; split <;> rfl
@[simp] theorem State.noteAddr_sp (v : Int) : (s.noteAddr v).sp = s.sp := by unfold State.noteAddr; split <;> rfl
@[simp] theorem State.noteAddr_stack (v : Int) : (s.noteAddr v).stack = s.stack := by unfold State.noteAddr; split <;> rfl
@[simp] theorem State.noteAddr_dt (v : Int) : (s.noteAddr v).dt = s.dt := by unfold State.noteAddr; split <;> rfl
@[simp] theorem State.noteAddr_st (v : Int) : (s.noteAddr v).st = s.st := by unfold State.noteAddr; split <;> rfl
@[simp] theorem State.noteAddr_fb (v : Int) : (s.noteAddr v).fb = s.fb := by unfold State.noteAddr; split <;> rfl
@[simp] theorem State.noteAddr_key (v : Int) : (s.noteAddr v).key = s.key := by unfold State.noteAddr; split <;> rfl
@[simp] theorem State.noteAddr_rndIn (v : Int) : (s.noteAddr v).rndIn = s.rndIn := by unfold State.noteAddr; split <;> rfl
@[simp] theorem State.noteAddr_draws (v : Int) : (s.noteAddr v).draws = s.draws := by unfold State.noteAddr; split <;> rfl
@[simp] theorem State.noteAddr_getV (v : Int) (q : Reg) : (s.noteAddr v).getV q = s.getV q := by unfold State.noteAddr; split <;> rfl
@[simp] theorem State.noteAddr_pixel (v : Int) (q : Fin 32) (d : Fin 64) : (s.noteAddr v).pixel q d = s.pixel q d := by unfold State.noteAddr; split <;> rfl
@[simp] theorem State.noteAddr_readByte (v : Int) (a' : Addr) : (s.noteAddr v).readByte a' = s.readByte a' := by unfold State.noteAddr; split <;> rfl
@[simp] theorem State.noteAddr_norm (v : Int) (w : Int) : (s.noteAddr v).norm w = s.norm w := by unfold State.noteAddr; split <;> rfl
@[simp] theorem State.noteAddr_rndByte (v : Int) : (s.noteAddr v).rndByte = s.rndByte := by unfold State.noteAddr; split <;> rfl
@[simp] theorem State.noteAddr_keyDown (v : Int) (w : Byte) : (s.noteAddr v).keyDown w = s.keyDown w := by unfold State.noteAddr; split <;> rfl
@[simp] theorem State.noteAddr_lowestKey (v : Int) : (s.noteAddr v).lowestKey = s.lowestKey := by unfold State.noteAddr; split <;> rfl

/-! ### noteKey: nothing but err and events changes -/

@[simp] theorem State.noteKey_cfg (v : Byte) : (s.noteKey v).cfg = s.cfg := by unfold State.noteKey; split <;> rfl
@[simp] theorem State.noteKey_mem (v : Byte) : (s.noteKey v).mem = s.mem := by unfold State.noteKey; split <;> rfl
@[simp] theorem State.noteKey_v (v : Byte) : (s.noteKey v).v = s.v := by unfold State.noteKey; split <;> rfl
@[simp] theorem State.noteKey_i (v : Byte) : (s.noteKey v).i = s.i := by unfold State.noteKey; split <;> rfl
@[simp] theorem State.noteKey_pc (v : Byte) : (s.noteKey v).pc = s.pc := by unfold State.noteKey; split <;> rfl
@[simp] theorem State.noteKey_sp (v : Byte) : (s.noteKey v).sp = s.sp := by unfold State.noteKey; split <;> rfl
@[simp] theorem State.noteKey_stack (v : Byte) : (s.noteKey v).stack = s.stack := by unfold State.noteKey; split <;> rfl
@[simp] theorem State.noteKey_dt (v : Byte) : (s.noteKey v).dt = s.dt := by unfold State.noteKey; split <;> rfl
@[simp] theorem State.noteKey_st (v : Byte) : (s.noteKey v).st = s.st := by unfold State.noteKey; split <;> rfl
@[simp] theorem State.noteKey_fb (v : Byte) : (s.noteKey v).fb = s.fb := by unfold State.noteKey; split <;> rfl
@[simp] theorem State.noteKey_key (v : Byte) : (s.noteKey v).key = s.key := by unfold State.noteKey; split <;> rfl
@[simp] theorem State.noteKey_rndIn (v : Byte) : (s.noteKey v).rndIn = s.rndIn := by unfold State.noteKey; split <;> rfl
@[simp] theorem State.noteKey_draws (v : Byte) : (s.noteKey v).draws = s.draws := by unfold State.noteKey; split <;> rfl
@[simp] theorem State.noteKey_getV (v : Byte) (q : Reg) : (s.noteKey v).getV q = s.getV q := by unfold State.noteKey; split <;> rfl
@[simp] theorem State.noteKey_pixel (v : Byte) (q : Fin 32) (d : Fin 64) : (s.noteKey v).pixel q d = s.pixel q d := by unfold State.noteKey; split <;> rfl
@[simp] theorem State.noteKey_readByte (v : Byte) (a' : Addr) : (s.noteKey v).readByte a' = s.readByte a' := by unfold State.noteKey; split <;> rfl
@[simp] theorem State.noteKey_norm (v : Byte) (w : Int) : (s.noteKey v).norm w = s.norm w := by unfold State.noteKey; split <;> rfl
@[simp] theorem State.noteKey_rndByte (v : Byte) : (s.noteKey v).rndByte = s.rndByte := by unfold State.noteKey; split <;> rfl
@[simp] theorem State.noteKey_keyDown (v : Byte) (w : Byte) : (s.noteKey v).keyDown w = s.keyDown w := by unfold State.noteKey; split <;> rfl
@[simp] theorem State.noteKey_lowestKey (v : Byte) : (s.noteKey v).lowestKey = s.lowestKey := by unfold State.noteKey; split <;> rfl

/-! ### gotoI -/

@[simp] theorem State.gotoI_cfg (v : Int) : (s.gotoI v).cfg = s.cfg := by simp [State.gotoI]
@[simp] theorem State.gotoI_mem (v : Int) : (s.gotoI v).mem = s.mem := by simp [State.gotoI]
@[simp] theorem State.gotoI_v (v : Int) : (s.gotoI v).v = s.v := by simp [State.gotoI]
@[simp] theorem State.gotoI_pc (v : Int) : (s.gotoI v).pc = s.pc := by simp [State.gotoI]
@[simp] theorem State.gotoI_sp (v : Int) : (s.gotoI v).sp = s.sp := by simp [State.gotoI]
@[simp] theorem State.gotoI_stack (v : Int) : (s.gotoI v).stack = s.stack := by simp [State.gotoI]
@[simp] theorem State.gotoI_dt (v : Int) : (s.gotoI v).dt = s.dt := by simp [State.gotoI]
@[simp] theorem State.gotoI_st (v : Int) : (s.gotoI v).st = s.st := by simp [State.gotoI]
@[simp] theorem State.gotoI_fb (v : Int) : (s.gotoI v).fb = s.fb := by simp [State.gotoI]
@[simp] theorem State.gotoI_key (v : Int) : (s.gotoI v).key = s.key := by simp [State.gotoI]
@[simp] theorem State.gotoI_rndIn (v : Int) : (s.gotoI v).rndIn = s.rndIn := by simp [State.gotoI]
@[simp] theorem State.gotoI_draws (v : Int) : (s.gotoI v).draws = s.draws := by simp [State.gotoI]
@[simp] theorem State.gotoI_getV (v : Int) (q : Reg) : (s.gotoI v).getV q = s.getV q := by simp [State.gotoI]
@[simp] theorem State.gotoI_pixel (v : Int) (q : Fin 32) (d : Fin 64) : (s.gotoI v).pixel q d = s.pixel q d := by simp [State.gotoI]
@[simp] theorem State.gotoI_readByte (v : Int) (a' : Addr) : (s.gotoI v).readByte a' = s.readByte a' := by simp [State.gotoI]
@[simp] theorem State.gotoI_norm (v : Int) (w : Int) : (s.gotoI v).norm w = s.norm w := by simp [State.gotoI]
@[simp] theorem State.gotoI_rndByte (v : Int) : (s.gotoI v).rndByte = s.rndByte := by simp [State.gotoI]
@[simp] theorem State.gotoI_keyDown (v : Int) (w : Byte) : (s.gotoI v).keyDown w = s.keyDown w := by simp [State.gotoI]
@[simp] theorem State.gotoI_lowestKey (v : Int) : (s.gotoI v).lowestKey = s.lowestKey := by simp [State.gotoI]

/-! ### gotoPC -/

@[simp] theorem State.gotoPC_cfg (v : Int) : (s.gotoPC v).cfg = s.cfg := by simp [State.gotoPC]
@[simp] theorem State.gotoPC_mem (v : Int) : (s.gotoPC v).mem = s.mem := by simp [State.gotoPC]
@[simp] theorem State.gotoPC_v (v : Int) : (s.gotoPC v).v = s.v := by simp [State.gotoPC]
@[simp] theorem State.gotoPC_i (v : Int) : (s.gotoPC v).i = s.i := by simp [State.gotoPC]
@[simp] theorem State.gotoPC_sp (v : Int) : (s.gotoPC v).sp = s.sp := by simp [State.gotoPC]
@[simp] theorem State.gotoPC_stack (v : Int) : (s.gotoPC v).stack = s.stack := by simp [State.gotoPC]
@[simp] theorem State.gotoPC_dt (v : Int) : (s.gotoPC v).dt = s.dt := by simp [State.gotoPC]
@[simp] theorem State.gotoPC_st (v : Int) : (s.gotoPC v).st = s.st := by simp [State.gotoPC]
@[simp] theorem State.gotoPC_fb (v : Int) : (s.gotoPC v).fb = s.fb := by simp [State.gotoPC]
@[simp] theorem State.gotoPC_key (v : Int) : (s.gotoPC v).key = s.key := by simp [State.gotoPC]
@[simp] theorem State.gotoPC_rndIn (v : Int) : (s.gotoPC v).rndIn = s.rndIn := by simp [State.gotoPC]
@[simp] theorem State.gotoPC_draws (v : Int) : (s.gotoPC v).draws = s.draws := by simp [State.gotoPC]
@[simp] theorem State.gotoPC_getV (v : Int) (q : Reg) : (s.gotoPC v).getV q = s.getV q := by simp [State.gotoPC]
@[simp] theorem State.gotoPC_pixel (v : Int) (q : Fin 32) (d : Fin 64) : (s.gotoPC v).pixel q d = s.pixel q d := by simp [State.gotoPC]
@[simp] theorem State.gotoPC_readByte (v : Int) (a' : Addr) : (s.gotoPC v).readByte a' = s.readByte a' := by simp [State.gotoPC]
@[simp] theorem State.gotoPC_norm (v : Int) (w : Int) : (s.gotoPC v).norm w = s.norm w := by simp [State.gotoPC]
@[simp] theorem State.gotoPC_rndByte (v : Int) : (s.gotoPC v).rndByte = s.rndByte := by simp [State.gotoPC]
@[simp] theorem State.gotoPC_keyDown (v : Int) (w : Byte) : (s.gotoPC v).keyDown w = s.keyDown w := by simp [State.gotoPC]
@[simp] theorem State.gotoPC_lowestKey (v : Int) : (s.gotoPC v).lowestKey = s.lowestKey := by simp [State.gotoPC]

/-! ### storeAt -/

@[simp] theorem State.storeAt_cfg (v : Int) (b : Byte) : (s.storeAt v b).cfg = s.cfg := by simp [State.storeAt]
@[simp] theorem State.storeAt_v (v : Int) (b : Byte) : (s.storeAt v b).v = s.v := by simp [State.storeAt]
@[simp] theorem State.storeAt_i (v : Int) (b : Byte) : (s.storeAt v b).i = s.i := by simp [State.storeAt]
@[simp] theorem State.storeAt_pc (v : Int) (b : Byte) : (s.storeAt v b).pc = s.pc := by simp [State.storeAt]
@[simp] theorem State.storeAt_sp (v : Int) (b : Byte) : (s.storeAt v b).sp = s.sp := by simp [State.storeAt]
@[simp] theorem State.storeAt_stack (v : Int) (b : Byte) : (s.storeAt v b).stack = s.stack := by simp [State.storeAt]
@[simp] theorem State.storeAt_dt (v : Int) (b : Byte) : (s.storeAt v b).dt = s.dt := by simp [State.storeAt]
@[simp] theorem State.storeAt_st (v : Int) (b : Byte) : (s.storeAt v b).st = s.st := by simp [State.storeAt]
@[simp] theorem State.storeAt_fb (v : Int) (b : Byte) : (s.storeAt v b).fb = s.fb := by simp [State.storeAt]
@[simp] theorem State.storeAt_key (v : Int) (b : Byte) : (s.storeAt v b).key = s.key := by simp [State.storeAt]
@[simp] theorem State.storeAt_rndIn (v : Int) (b : Byte) : (s.storeAt v b).rndIn = s.rndIn := by simp [State.storeAt]
@[simp] theorem State.storeAt_draws (v : Int) (b : Byte) : (s.storeAt v b).draws = s.draws := by simp [State.storeAt]
@[simp] theorem State.storeAt_getV (v : Int) (b : Byte) (q : Reg) : (s.storeAt v b).getV q = s.getV q := by simp [State.storeAt]
@[simp] theorem State.storeAt_pixel (v : Int) (b : Byte) (q : Fin 32) (d : Fin 64) : (s.storeAt v b).pixel q d = s.pixel q d := by simp [State.storeAt]
@[simp] theorem State.storeAt_norm (v : Int) (b : Byte) (w : Int) : (s.storeAt v b).norm w = s.norm w := by simp [State.storeAt]
@[simp] theorem State.storeAt_rndByte (v : Int) (b : Byte) : (s.storeAt v b).rndByte = s.rndByte := by simp [State.storeAt]
@[simp] theorem State.storeAt_keyDown (v : Int) (b : Byte) (w : Byte) : (s.storeAt v b).keyDown w = s.keyDown w := by simp [State.storeAt]
@[simp] theorem State.storeAt_lowestKey (v : Int) (b : Byte) : (s.storeAt v b).lowestKey = s.lowestKey := by simp [State.storeAt]
end

variable {s : State}

/-! ### addr() -/

/-- In range, addr() reports nothing. -/
theorem State.noteAddr_of_inRange {v : Int} (h : inRange v) : s.noteAddr v = s := if_pos h

/-- Out of range, addr() raises AddrOutOfRange. -/
theorem State.noteAddr_of_not_inRange {v : Int} (h : ¬ inRange v) : s.noteAddr v = s.raise (.addrOutOfRange v) := if_neg h

/-- The events after addr(). -/
theorem State.noteAddr_events (v : Int) :
    (s.noteAddr v).events = s.events ++ if inRange v then [] else [.addrOutOfRange v] := by
  unfold State.noteAddr
  split <;> simp

/-- ERR after addr(). -/
theorem State.noteAddr_err (v : Int) :
    (s.noteAddr v).err = s.err ||| if inRange v then 0 else EventKind.addrOutOfRange.bit := by
  unfold State.noteAddr
  split
  · simp
  · rfl

/-- Both policies agree in range, and answer the value itself. -/
theorem normalise_of_inRange {p : Config.AddrPolicy} {v : Int} (h : inRange v) : normalise p v = BitVec.ofInt 12 v :=
  if_pos h

theorem normalise_wrap (v : Int) : normalise .wrap v = BitVec.ofInt 12 v := by
  unfold normalise
  split <;> rfl

theorem normalise_toNat_of_inRange {p : Config.AddrPolicy} {v : Int} (h : inRange v) : (normalise p v).toNat = v.toNat := by
  rw [normalise_of_inRange h, BitVec.toNat_ofInt]
  obtain ⟨h0, h1⟩ := h
  have : v % ((2 ^ 12 : Nat) : Int) = v := Int.emod_eq_of_lt h0 (by norm_num; omega)
  rw [this]

@[simp] theorem State.gotoPC_pc (v : Int) : (s.gotoPC v).pc = s.norm v := rfl
@[simp] theorem State.gotoI_i (v : Int) : (s.gotoI v).i = s.norm v := rfl

/-! ### registers and pixels -/

theorem State.getV_setV (x r : Reg) (b : Byte) : (s.setV x b).getV r = if r = x then b else s.getV r := by
  show (s.v.set x.val b x.isLt)[r.val] = _
  rw [Vector.getElem_set]
  by_cases h : r = x
  · simp [h]
  · rw [if_neg (fun e => h (Fin.ext e.symm)), if_neg h]
    rfl

@[simp] theorem State.getV_setV_self (x : Reg) (b : Byte) : (s.setV x b).getV x = b := by
  simp [State.getV_setV]

theorem State.pixel_setPixel (r r' : Fin 32) (c c' : Fin 64) (b : Bool) :
    (s.setPixel r c b).pixel r' c' = if r' = r ∧ c' = c then b else s.pixel r' c' := by
  have hrow : (s.setPixel r c b).fb[r'] = if r' = r then s.fb[r].set c.val b c.isLt else s.fb[r'] := by
    show (s.fb.set r.val (s.fb[r].set c.val b c.isLt) r.isLt)[r'.val] = _
    rw [Vector.getElem_set]
    by_cases h : r' = r
    · simp [h]
    · rw [if_neg (fun e => h (Fin.ext e.symm)), if_neg h]
      rfl
  unfold State.pixel
  rw [hrow]
  by_cases hr : r' = r
  · subst hr
    rw [if_pos rfl]
    show (s.fb[r'].set c.val b c.isLt)[c'.val] = _
    rw [Vector.getElem_set]
    by_cases hc : c' = c
    · simp [hc]
    · rw [if_neg (fun e => hc (Fin.ext e.symm)), if_neg (fun e => hc e.2)]
      rfl
  · rw [if_neg hr, if_neg (fun e => hr e.1)]

@[simp] theorem State.pixel_clearFB (r : Fin 32) (c : Fin 64) : s.clearFB.pixel r c = false := by
  simp [State.pixel, State.clearFB]

/-! ### the stack -/

/-- push() below depth 16 (R120). -/
theorem State.push_of_lt (a : Addr) (h : s.sp.val < 16) :
    s.push a = (true, { s with stack := s.stack.set s.sp.val a h, sp := ⟨s.sp.val + 1, by omega⟩ }) := dif_pos h

/-- push() at depth 16 (R120). -/
theorem State.push_of_full (a : Addr) (h : s.sp.val = 16) : s.push a = (false, s.raise (.stackOverflow a)) :=
  dif_neg (by omega)

/-- pop() above depth 0 (R121). -/
theorem State.pop_of_pos (h : 0 < s.sp.val) :
    s.pop = (some (s.stack[s.sp.val - 1]'(by omega)), { s with sp := ⟨s.sp.val - 1, by omega⟩ }) := dif_pos h

/-- pop() at depth 0 (R121). -/
theorem State.pop_of_empty (h : s.sp.val = 0) : s.pop = (none, s.raise .stackUnderflow) := dif_neg (by omega)

/-! ### skips -/

@[simp] theorem State.skipIf_false : s.skipIf false = s := rfl
@[simp] theorem State.skipIf_true : s.skipIf true = s.skip := rfl

/-! ### keys -/

theorem State.noteKey_events (v : Byte) :
    (s.noteKey v).events = s.events ++ if v.toNat ≤ 15 then [] else [.keyOutOfRange v] := by
  unfold State.noteKey
  split <;> simp

/-- No key is found exactly when none is held. -/
theorem State.lowestKey_eq_none : s.lowestKey = none ↔ ∀ k : Fin 16, s.key[k] = false := by
  simp [State.lowestKey]

/-! ### storing bytes and loading registers -/

/-- storeBytes changes memory, ERR and the event list, and nothing else. -/
theorem State.storeBytes_eq (bs : List Byte) : ∀ (s : State) (v : Int),
    s.storeBytes v bs = { s with mem := (s.storeBytes v bs).mem, err := (s.storeBytes v bs).err,
                                 events := (s.storeBytes v bs).events } := by
  induction bs with
  | nil => intro s v; rfl
  | cons b rest ih =>
    intro s v
    rw [State.storeBytes, ih]
    simp

/-- storeBytes keeps the canonical form. -/
theorem State.storeBytes_wf (bs : List Byte) : ∀ (s : State) (v : Int), Memory.wf s.cfg.font s.mem = true →
    Memory.wf s.cfg.font (s.storeBytes v bs).mem = true := by
  induction bs with
  | nil => intro s v h; exact h
  | cons b rest ih =>
    intro s v h
    have := ih (s.storeAt v b) (v + 1) (by
      have := Memory.write_wf (b := b) h (s.norm v).isLt
      simpa [State.storeAt] using this)
    simpa [State.storeBytes] using this

/-- A byte at none of the addresses stored to is unchanged. -/
theorem State.readByte_storeBytes_of_ne (bs : List Byte) : ∀ (s : State) (v : Int) (a : Addr),
    (∀ k : Nat, k < bs.length → s.norm (v + k) ≠ a) → (s.storeBytes v bs).readByte a = s.readByte a := by
  induction bs with
  | nil => intro s v a _; rfl
  | cons b rest ih =>
    intro s v a h
    have h0 : s.norm v ≠ a := by simpa using h 0 (by simp)
    rw [State.storeBytes, ih (s.storeAt v b) (v + 1) a (fun k hk => by
      have := h (k + 1) (by simpa using hk)
      have e : v + ((k + 1 : Nat) : Int) = v + 1 + k := by push_cast; ring
      rw [e] at this
      simpa using this)]
    show (State.writeByte (s.noteAddr v) (s.norm v) b).readByte a = _
    rw [State.readByte_writeByte_ne (Ne.symm h0)]
    simp

/-- loadRegs changes V, ERR and the event list, and nothing else. -/
theorem State.loadRegs_eq (rs : List Reg) : ∀ (s : State) (v : Int),
    s.loadRegs v rs = { s with v := (s.loadRegs v rs).v, err := (s.loadRegs v rs).err,
                               events := (s.loadRegs v rs).events } := by
  induction rs with
  | nil => intro s v; rfl
  | cons r rest ih =>
    intro s v
    rw [State.loadRegs, ih]
    simp

/-- A register that is not in the list keeps its value. -/
theorem State.getV_loadRegs_of_not_mem (rs : List Reg) : ∀ (s : State) (v : Int) (r : Reg), r ∉ rs →
    (s.loadRegs v rs).getV r = s.getV r := by
  induction rs with
  | nil => intro s v r _; rfl
  | cons q rest ih =>
    intro s v r h
    simp only [List.mem_cons, not_or] at h
    rw [State.loadRegs, ih _ _ _ h.2, State.getV_setV, if_neg h.1]
    simp

/-- The registers V0..Vx. -/
@[simp] theorem mem_regsUpTo (x r : Reg) : r ∈ regsUpTo x ↔ r ≤ x := by
  revert x r
  decide

/-! ### outcomes -/

@[simp] theorem onNext_next (f : State → State) (s : State) : onNext f (.next s) = .next (f s) := rfl

end Sys2Proof.Machine
end

