-- ==== Sys2Proof/Laws/Display.lean ====
section
/-! SUPPORT. What the sprite loops can do: plot, drawCols and drawRows leave everything but V, FB, ERR and the events alone, and which
pixels they toggle. -/

namespace Sys2Proof.Machine

/-- plot changes V (VF) and FB only. -/
theorem State.plot_eq (s : State) (r : Fin 32) (c : Fin 64) :
    s.plot r c = { s with v := (s.plot r c).v, fb := (s.plot r c).fb } := by
  unfold State.plot
  split <;> rfl

/-- plot writes no register but VF. -/
theorem State.getV_plot_of_ne (s : State) (r : Fin 32) (c : Fin 64) {q : Reg} (h : q ≠ vF) :
    (s.plot r c).getV q = s.getV q := by
  unfold State.plot
  split <;> simp [State.getV_setV, h]

/-- VF after a plot: 1 on a collision, else as it was (R242). -/
theorem State.getV_plot_vF (s : State) (r : Fin 32) (c : Fin 64) :
    (s.plot r c).getV vF = if s.pixel r c then 1 else s.getV vF := by
  unfold State.plot
  split <;> simp

/-- The framebuffer after a plot: one pixel toggled (R242). -/
theorem State.pixel_plot (s : State) (r r' : Fin 32) (c c' : Fin 64) :
    (s.plot r c).pixel r' c' = if r' = r ∧ c' = c then !s.pixel r c else s.pixel r' c' := by
  unfold State.plot
  rw [State.pixel_setPixel]
  by_cases h : s.pixel r c = true <;> simp [h]

/-- The column loop changes V and FB only. -/
theorem State.drawCols_eq (r : Fin 32) (x0 : Nat) (b : Byte) (cols : List Nat) : ∀ s : State,
    s.drawCols r x0 b cols =
      { s with v := (s.drawCols r x0 b cols).v, fb := (s.drawCols r x0 b cols).fb } := by
  induction cols with
  | nil => intro s; rfl
  | cons col rest ih =>
    intro s
    rw [State.drawCols]
    split
    · rw [ih]
      split
      · rw [State.plot_eq]
      · rfl
    · rfl

/-- The column loop writes no register but VF. -/
theorem State.getV_drawCols_of_ne (r : Fin 32) (x0 : Nat) (b : Byte) (cols : List Nat) {q : Reg} (h : q ≠ vF) :
    ∀ s : State, (s.drawCols r x0 b cols).getV q = s.getV q := by
  induction cols with
  | nil => intro s; rfl
  | cons col rest ih =>
    intro s
    rw [State.drawCols]
    split
    · rw [ih]
      split
      · exact State.getV_plot_of_ne s r _ h
      · rfl
    · rfl

/-- The row loop changes V, FB, ERR and the event list only. -/
theorem State.drawRows_eq (x0 y0 : Nat) (rows : List Nat) : ∀ s : State,
    s.drawRows x0 y0 rows =
      { s with v := (s.drawRows x0 y0 rows).v, fb := (s.drawRows x0 y0 rows).fb,
               err := (s.drawRows x0 y0 rows).err, events := (s.drawRows x0 y0 rows).events } := by
  induction rows with
  | nil => intro s; rfl
  | cons row rest ih =>
    intro s
    rw [State.drawRows]
    split
    · rw [ih, State.drawCols_eq]
      simp
    · rfl

/-- The row loop writes no register but VF. -/
theorem State.getV_drawRows_of_ne (x0 y0 : Nat) (rows : List Nat) {q : Reg} (h : q ≠ vF) :
    ∀ s : State, (s.drawRows x0 y0 rows).getV q = s.getV q := by
  induction rows with
  | nil => intro s; rfl
  | cons row rest ih =>
    intro s
    rw [State.drawRows]
    split
    · rw [ih, State.getV_drawCols_of_ne _ _ _ _ h]
      simp
    · rfl

/-! ### the pixels and VF in closed form -/

/-- A row of the sprite has a 1 bit over column c. -/
def rowCovers (x0 : Nat) (b : Byte) (cols : List Nat) (c : Fin 64) : Prop :=
  ∃ col ∈ cols, c.val = x0 + col ∧ spriteBit b col = true

/-- Everything the column loop does to the pixels and to VF, for rising columns (R242). -/
theorem State.drawCols_spec (r : Fin 32) (x0 : Nat) (b : Byte) (cols : List Nat) (hc : cols.Pairwise (· < ·)) :
    ∀ s : State,
      (∀ r' c, (r' = r ∧ rowCovers x0 b cols c → (s.drawCols r x0 b cols).pixel r' c = !s.pixel r' c) ∧
        (¬ (r' = r ∧ rowCovers x0 b cols c) → (s.drawCols r x0 b cols).pixel r' c = s.pixel r' c)) ∧
      ((∃ c, rowCovers x0 b cols c ∧ s.pixel r c = true) → (s.drawCols r x0 b cols).getV vF = 1) ∧
      ((¬ ∃ c, rowCovers x0 b cols c ∧ s.pixel r c = true) → (s.drawCols r x0 b cols).getV vF = s.getV vF) := by
  induction cols with
  | nil => intro s; simp [rowCovers, State.drawCols]
  | cons col rest ih =>
    intro s
    obtain ⟨hlt, hrest⟩ := List.pairwise_cons.mp hc
    rw [State.drawCols]
    split
    · rename_i h
      obtain ⟨h1, h2, h3⟩ := ih hrest (if spriteBit b col then s.plot r ⟨x0 + col, h⟩ else s)
      by_cases hb : spriteBit b col = true
      · rw [if_pos hb] at h1 h2 h3 ⊢
        have hcov : ∀ c : Fin 64, rowCovers x0 b (col :: rest) c ↔ c = ⟨x0 + col, h⟩ ∨ rowCovers x0 b rest c := by
          intro c
          simp [rowCovers, hb, Fin.ext_iff]
        have hnot : ¬ rowCovers x0 b rest ⟨x0 + col, h⟩ := by
          rintro ⟨q, hq, e, -⟩
          have := hlt q hq
          simp at e
          omega
        refine ⟨fun r' c => ⟨fun hx => ?_, fun hx => ?_⟩, fun hx => ?_, fun hx => ?_⟩
        · obtain ⟨rfl, hx⟩ := hx
          rcases (hcov c).mp hx with rfl | hx
          · rw [(h1 r' _).2 (fun k => hnot k.2), State.pixel_plot, if_pos ⟨rfl, rfl⟩]
          · rw [(h1 r' c).1 ⟨rfl, hx⟩, State.pixel_plot, if_neg]
            rintro ⟨-, rfl⟩
            exact hnot hx
        · rw [hcov] at hx
          rw [(h1 r' c).2 (fun k => hx ⟨k.1, .inr k.2⟩), State.pixel_plot, if_neg]
          rintro ⟨rfl, rfl⟩
          exact hx ⟨rfl, .inl rfl⟩
        · by_cases hr : ∃ c, rowCovers x0 b rest c ∧ (s.plot r ⟨x0 + col, h⟩).pixel r c = true
          · exact h2 hr
          · rw [h3 hr, State.getV_plot_vF, if_pos]
            obtain ⟨c, hcc, hp⟩ := hx
            rcases (hcov c).mp hcc with rfl | hcc
            · exact hp
            · refine absurd ⟨c, hcc, ?_⟩ hr
              rw [State.pixel_plot, if_neg]
              · exact hp
              · rintro ⟨-, rfl⟩
                exact hnot hcc
        · rw [h3, State.getV_plot_vF, if_neg]
          · exact fun k => hx ⟨_, (hcov _).mpr (.inl rfl), k⟩
          · rintro ⟨c, hcc, hp⟩
            refine hx ⟨c, (hcov c).mpr (.inr hcc), ?_⟩
            rw [State.pixel_plot, if_neg] at hp
            · exact hp
            · rintro ⟨-, rfl⟩
              exact hnot hcc
      · rw [if_neg hb] at h1 h2 h3 ⊢
        have hcov : ∀ c : Fin 64, rowCovers x0 b (col :: rest) c ↔ rowCovers x0 b rest c := by
          intro c
          simp [rowCovers, hb]
        simpa only [hcov] using And.intro h1 (And.intro h2 h3)
    · rename_i h
      have hcov : ∀ c : Fin 64, ¬ rowCovers x0 b (col :: rest) c := by
        rintro c ⟨q, hq, e, -⟩
        have := c.isLt
        rcases List.mem_cons.mp hq with rfl | hq
        · omega
        · have := hlt q hq
          omega
      simp [hcov]

/-- The sprite rows of a list have a 1 bit at pixel (r, c). -/
def State.rowsCover (s : State) (x0 y0 : Nat) (rows : List Nat) (r : Fin 32) (c : Fin 64) : Prop :=
  ∃ row ∈ rows, r.val = y0 + row ∧ rowCovers x0 (s.readByte (s.norm (s.indexPlus row))) (List.range 8) c

/-- Everything the row loop does to the pixels and to VF, for rising rows (R242). -/
theorem State.drawRows_spec (x0 y0 : Nat) (rows : List Nat) (hc : rows.Pairwise (· < ·)) :
    ∀ s : State,
      (∀ r c, (s.rowsCover x0 y0 rows r c → (s.drawRows x0 y0 rows).pixel r c = !s.pixel r c) ∧
        (¬ s.rowsCover x0 y0 rows r c → (s.drawRows x0 y0 rows).pixel r c = s.pixel r c)) ∧
      ((∃ r c, s.rowsCover x0 y0 rows r c ∧ s.pixel r c = true) → (s.drawRows x0 y0 rows).getV vF = 1) ∧
      ((¬ ∃ r c, s.rowsCover x0 y0 rows r c ∧ s.pixel r c = true) → (s.drawRows x0 y0 rows).getV vF = s.getV vF) := by
  induction rows with
  | nil => intro s; simp [State.rowsCover, State.drawRows]
  | cons row rest ih =>
    intro s
    obtain ⟨hlt, hrest⟩ := List.pairwise_cons.mp hc
    rw [State.drawRows]
    split
    · rename_i h
      obtain ⟨k1, k2, k3⟩ := State.drawCols_spec ⟨y0 + row, h⟩ x0 (s.readByte (s.norm (s.indexPlus row))) (List.range 8)
        List.pairwise_lt_range (s.noteAddr (s.indexPlus row))
      obtain ⟨h1, h2, h3⟩ := ih hrest ((s.noteAddr (s.indexPlus row)).drawCols ⟨y0 + row, h⟩ x0
        (s.readByte (s.norm (s.indexPlus row))) (List.range 8))
      set b := s.readByte (s.norm (s.indexPlus row)) with hb
      set u := (s.noteAddr (s.indexPlus row)).drawCols ⟨y0 + row, h⟩ x0 b (List.range 8) with hu
      simp only [State.noteAddr_pixel, State.noteAddr_getV] at k1 k2 k3
      have hur : ∀ r c, u.rowsCover x0 y0 rest r c ↔ s.rowsCover x0 y0 rest r c := by
        intro r c
        have e1 : ∀ a, u.readByte a = s.readByte a := by
          intro a; rw [hu, State.drawCols_eq]; exact State.noteAddr_readByte s _ a
        have e2 : ∀ v, u.norm v = s.norm v := by
          intro v; rw [hu, State.drawCols_eq]; exact State.noteAddr_norm s _ v
        have e3 : ∀ k, u.indexPlus k = s.indexPlus k := by
          intro k; rw [hu, State.drawCols_eq]; unfold State.indexPlus; rw [State.noteAddr_i]
        simp only [State.rowsCover, e1, e2, e3]
      have hcov : ∀ r c, s.rowsCover x0 y0 (row :: rest) r c ↔
          (r = ⟨y0 + row, h⟩ ∧ rowCovers x0 b (List.range 8) c) ∨ s.rowsCover x0 y0 rest r c := by
        intro r c
        simp [State.rowsCover, Fin.ext_iff, hb]
      have hnot : ∀ c, ¬ s.rowsCover x0 y0 rest ⟨y0 + row, h⟩ c := by
        rintro c ⟨q, hq, e, -⟩
        have := hlt q hq
        simp at e
        omega
      simp only [hur] at h1 h2 h3
      refine ⟨fun r c => ⟨fun hx => ?_, fun hx => ?_⟩, fun hx => ?_, fun hx => ?_⟩
      · rcases (hcov r c).mp hx with hx | hx
        · rw [(h1 r c).2 (by rw [hx.1]; exact hnot c), (k1 r c).1 hx]
        · rw [(h1 r c).1 hx, (k1 r c).2]
          rintro ⟨rfl, -⟩
          exact hnot c hx
      · rw [hcov, not_or] at hx
        rw [(h1 r c).2 hx.2, (k1 r c).2 hx.1]
      · by_cases hr : ∃ r c, s.rowsCover x0 y0 rest r c ∧ u.pixel r c = true
        · exact h2 hr
        · rw [h3 hr, k2]
          obtain ⟨r, c, hcc, hp⟩ := hx
          rcases (hcov r c).mp hcc with ⟨rfl, hcc'⟩ | hcc'
          · exact ⟨c, hcc', hp⟩
          · refine absurd ⟨r, c, hcc', ?_⟩ hr
            rw [(k1 r c).2]
            · exact hp
            · rintro ⟨rfl, -⟩
              exact hnot c hcc'
      · rw [h3, k3]
        · rintro ⟨c, hcc, hp⟩
          exact hx ⟨_, c, (hcov _ c).mpr (.inl ⟨rfl, hcc⟩), hp⟩
        · rintro ⟨r, c, hcc, hp⟩
          refine hx ⟨r, c, (hcov r c).mpr (.inr hcc), ?_⟩
          rw [(k1 r c).2] at hp
          · exact hp
          · rintro ⟨rfl, -⟩
            exact hnot c hcc
    · rename_i h
      have hcov : ∀ r c, ¬ s.rowsCover x0 y0 (row :: rest) r c := by
        rintro r c ⟨q, hq, e, -⟩
        have := r.isLt
        rcases List.mem_cons.mp hq with rfl | hq
        · omega
        · have := hlt q hq
          omega
      simp [hcov]

end Sys2Proof.Machine
end

