-- ==== Sys2Proof/Laws/PerInstr.lean ====
section
/-! SUPPORT. Per instruction: the encoder's word has the fixed bits of the instruction's row of R83. -/

namespace Sys2Proof

/-- Low bits survive the mask 0xF000 as nothing, so only op counts. -/
theorem encodeNNN_mask (op : BitVec 4) (nnn : Addr) : encodeNNN op nnn &&& 0xF000 = encodeNNN op 0 := by
  apply BitVec.eq_of_getLsbD_eq
  intro k hk
  simp only [encodeNNN, BitVec.getLsbD_and, BitVec.getLsbD_append]
  interval_cases k <;> simp

theorem encodeXNN_mask (op : BitVec 4) (x : Reg) (nn : Byte) : encodeXNN op x nn &&& 0xF000 = encodeNNN op 0 := by
  apply BitVec.eq_of_getLsbD_eq
  intro k hk
  simp only [encodeNNN, encodeXNN, BitVec.getLsbD_and, BitVec.getLsbD_append]
  interval_cases k <;> simp

theorem encodeXNN_maskNN (op : BitVec 4) (x : Reg) (nn : Byte) : encodeXNN op x nn &&& 0xF0FF = encodeXNN op 0 nn := by
  apply BitVec.eq_of_getLsbD_eq
  intro k hk
  simp only [encodeXNN, nibbleOfReg, BitVec.getLsbD_and, BitVec.getLsbD_append]
  interval_cases k <;> simp

theorem encodeXYN_mask (op : BitVec 4) (x y : Reg) (n : BitVec 4) : encodeXYN op x y n &&& 0xF000 = encodeNNN op 0 := by
  apply BitVec.eq_of_getLsbD_eq
  intro k hk
  simp only [encodeNNN, encodeXYN, BitVec.getLsbD_and, BitVec.getLsbD_append]
  interval_cases k <;> simp

theorem encodeXYN_maskN (op : BitVec 4) (x y : Reg) (n : BitVec 4) : encodeXYN op x y n &&& 0xF00F = encodeXYN op 0 0 n := by
  apply BitVec.eq_of_getLsbD_eq
  intro k hk
  simp only [encodeXYN, nibbleOfReg, BitVec.getLsbD_and, BitVec.getLsbD_append]
  interval_cases k <;> simp

end Sys2Proof

namespace Sys2Proof.Laws.FixedBits

/-- The encoder's word of an instruction selects the instruction's own row of R83. -/
def Statement (i : Instr) : Prop := ∃ r ∈ opcodeTable, r.num = i.row ∧ encode i &&& r.mask = r.pattern

theorem cls : Statement .cls := ⟨⟨1, 0x00E0, 0xFFFF⟩, by decide, rfl, rfl⟩
theorem ret : Statement .ret := ⟨⟨2, 0x00EE, 0xFFFF⟩, by decide, rfl, rfl⟩
theorem jp (nnn : Addr) : Statement (.jp nnn) := ⟨⟨3, 0x1000, 0xF000⟩, by decide, rfl, (encodeNNN_mask _ _).trans (by decide)⟩
theorem call (nnn : Addr) : Statement (.call nnn) := ⟨⟨4, 0x2000, 0xF000⟩, by decide, rfl, (encodeNNN_mask _ _).trans (by decide)⟩
theorem seImm (x : Reg) (nn : Byte) : Statement (.seImm x nn) := ⟨⟨5, 0x3000, 0xF000⟩, by decide, rfl, (encodeXNN_mask _ _ _).trans (by decide)⟩
theorem sneImm (x : Reg) (nn : Byte) : Statement (.sneImm x nn) := ⟨⟨6, 0x4000, 0xF000⟩, by decide, rfl, (encodeXNN_mask _ _ _).trans (by decide)⟩
theorem seReg (x : Reg) (y : Reg) : Statement (.seReg x y) := ⟨⟨7, 0x5000, 0xF00F⟩, by decide, rfl, (encodeXYN_maskN _ _ _ _).trans (by decide)⟩
theorem ldImm (x : Reg) (nn : Byte) : Statement (.ldImm x nn) := ⟨⟨8, 0x6000, 0xF000⟩, by decide, rfl, (encodeXNN_mask _ _ _).trans (by decide)⟩
theorem addImm (x : Reg) (nn : Byte) : Statement (.addImm x nn) := ⟨⟨9, 0x7000, 0xF000⟩, by decide, rfl, (encodeXNN_mask _ _ _).trans (by decide)⟩
theorem ldReg (x : Reg) (y : Reg) : Statement (.ldReg x y) := ⟨⟨10, 0x8000, 0xF00F⟩, by decide, rfl, (encodeXYN_maskN _ _ _ _).trans (by decide)⟩
theorem orReg (x : Reg) (y : Reg) : Statement (.orReg x y) := ⟨⟨11, 0x8001, 0xF00F⟩, by decide, rfl, (encodeXYN_maskN _ _ _ _).trans (by decide)⟩
theorem andReg (x : Reg) (y : Reg) : Statement (.andReg x y) := ⟨⟨12, 0x8002, 0xF00F⟩, by decide, rfl, (encodeXYN_maskN _ _ _ _).trans (by decide)⟩
theorem xorReg (x : Reg) (y : Reg) : Statement (.xorReg x y) := ⟨⟨13, 0x8003, 0xF00F⟩, by decide, rfl, (encodeXYN_maskN _ _ _ _).trans (by decide)⟩
theorem addReg (x : Reg) (y : Reg) : Statement (.addReg x y) := ⟨⟨14, 0x8004, 0xF00F⟩, by decide, rfl, (encodeXYN_maskN _ _ _ _).trans (by decide)⟩
theorem sub (x : Reg) (y : Reg) : Statement (.sub x y) := ⟨⟨15, 0x8005, 0xF00F⟩, by decide, rfl, (encodeXYN_maskN _ _ _ _).trans (by decide)⟩
theorem shr (x : Reg) : Statement (.shr x) := ⟨⟨16, 0x8006, 0xF00F⟩, by decide, rfl, (encodeXYN_maskN _ _ _ _).trans (by decide)⟩
theorem subn (x : Reg) (y : Reg) : Statement (.subn x y) := ⟨⟨17, 0x8007, 0xF00F⟩, by decide, rfl, (encodeXYN_maskN _ _ _ _).trans (by decide)⟩
theorem shl (x : Reg) : Statement (.shl x) := ⟨⟨18, 0x800E, 0xF00F⟩, by decide, rfl, (encodeXYN_maskN _ _ _ _).trans (by decide)⟩
theorem sneReg (x : Reg) (y : Reg) : Statement (.sneReg x y) := ⟨⟨19, 0x9000, 0xF00F⟩, by decide, rfl, (encodeXYN_maskN _ _ _ _).trans (by decide)⟩
theorem ldI (nnn : Addr) : Statement (.ldI nnn) := ⟨⟨20, 0xA000, 0xF000⟩, by decide, rfl, (encodeNNN_mask _ _).trans (by decide)⟩
theorem jpV0 (nnn : Addr) : Statement (.jpV0 nnn) := ⟨⟨21, 0xB000, 0xF000⟩, by decide, rfl, (encodeNNN_mask _ _).trans (by decide)⟩
theorem rnd (x : Reg) (nn : Byte) : Statement (.rnd x nn) := ⟨⟨22, 0xC000, 0xF000⟩, by decide, rfl, (encodeXNN_mask _ _ _).trans (by decide)⟩
theorem drw (x : Reg) (y : Reg) (n : Nat) : Statement (.drw x y n) := ⟨⟨23, 0xD000, 0xF000⟩, by decide, rfl, (encodeXYN_mask _ _ _ _).trans (by decide)⟩
theorem skp (x : Reg) : Statement (.skp x) := ⟨⟨24, 0xE09E, 0xF0FF⟩, by decide, rfl, (encodeXNN_maskNN _ _ _).trans (by decide)⟩
theorem sknp (x : Reg) : Statement (.sknp x) := ⟨⟨25, 0xE0A1, 0xF0FF⟩, by decide, rfl, (encodeXNN_maskNN _ _ _).trans (by decide)⟩
theorem ldVxDt (x : Reg) : Statement (.ldVxDt x) := ⟨⟨26, 0xF007, 0xF0FF⟩, by decide, rfl, (encodeXNN_maskNN _ _ _).trans (by decide)⟩
theorem ldVxK (x : Reg) : Statement (.ldVxK x) := ⟨⟨27, 0xF00A, 0xF0FF⟩, by decide, rfl, (encodeXNN_maskNN _ _ _).trans (by decide)⟩
theorem ldDtVx (x : Reg) : Statement (.ldDtVx x) := ⟨⟨28, 0xF015, 0xF0FF⟩, by decide, rfl, (encodeXNN_maskNN _ _ _).trans (by decide)⟩
theorem ldStVx (x : Reg) : Statement (.ldStVx x) := ⟨⟨29, 0xF018, 0xF0FF⟩, by decide, rfl, (encodeXNN_maskNN _ _ _).trans (by decide)⟩
theorem addIVx (x : Reg) : Statement (.addIVx x) := ⟨⟨30, 0xF01E, 0xF0FF⟩, by decide, rfl, (encodeXNN_maskNN _ _ _).trans (by decide)⟩
theorem ldFVx (x : Reg) : Statement (.ldFVx x) := ⟨⟨31, 0xF029, 0xF0FF⟩, by decide, rfl, (encodeXNN_maskNN _ _ _).trans (by decide)⟩
theorem ldBVx (x : Reg) : Statement (.ldBVx x) := ⟨⟨32, 0xF033, 0xF0FF⟩, by decide, rfl, (encodeXNN_maskNN _ _ _).trans (by decide)⟩
theorem ldMemVx (x : Reg) : Statement (.ldMemVx x) := ⟨⟨33, 0xF055, 0xF0FF⟩, by decide, rfl, (encodeXNN_maskNN _ _ _).trans (by decide)⟩
theorem ldVxMem (x : Reg) : Statement (.ldVxMem x) := ⟨⟨34, 0xF065, 0xF0FF⟩, by decide, rfl, (encodeXNN_maskNN _ _ _).trans (by decide)⟩

end Sys2Proof.Laws.FixedBits
end

