-- ==== Sys2Proof/Laws/Step.lean ====
section
/-! SUPPORT. What one step can do: the inversion lemma of step, what the fetch leaves, and the parts the meanings are built from. -/

namespace Sys2Proof.Machine

variable {s t : State}

/-- A step that answers next either ran the word's instruction in the state the fetch left, or the word was
unassigned; then the random byte was consumed. -/
theorem step_next (h : step s = .next t) :
    (∃ i u, decode s.fetchWord = .instr i ∧ exec i s.afterFetch = .next u ∧ t = u.consumeRnd) ∨
    (∃ w, decode s.fetchWord = .nop w ∧ t = s.afterFetch.consumeRnd) := by
  unfold step at h
  split at h
  · rename_i i hd
    cases he : exec i s.afterFetch with
    | next u =>
      rw [he] at h
      exact .inl ⟨i, u, hd, he, (Host.Outcome.next.inj h).symm⟩
    | fault r => cases r
    | refused r =>
      rw [he] at h
      cases h
  · rename_i w hd
    exact .inr ⟨w, hd, (Host.Outcome.next.inj h).symm⟩

/-- A step of an assigned word. -/
theorem step_of_instr {i : Instr} (h : decode s.fetchWord = .instr i) :
    step s = onNext State.consumeRnd (exec i s.afterFetch) := by
  unfold step
  rw [h]

/-- A step of an unassigned word. -/
theorem step_of_nop {w : Word} (h : decode s.fetchWord = .nop w) : step s = .next s.afterFetch.consumeRnd := by
  unfold step
  rw [h]
  rfl

/-- The fetch changes PC, the event list and ERR, and nothing else (R102). -/
theorem State.afterFetch_eq (s : State) :
    s.afterFetch = { s with pc := s.norm ((s.pc.toNat : Int) + 2), events := s.afterFetch.events,
                            err := s.afterFetch.err } := by
  unfold State.afterFetch State.gotoPC State.noteAddr
  split <;> split <;> rfl

/-! ### the frame vocabulary -/

theorem Part.same_refl (p : Part) (s : State) : p.same s s := by
  cases p <;> simp [Part.same]

theorem Unchanged.refl (e : List Part) (s : State) : Unchanged e s s := fun p _ => p.same_refl s

theorem Part.same_trans {p : Part} {s t u : State} (h : p.same s t) (k : p.same t u) : p.same s u := by
  cases p <;> simp_all [Part.same]

theorem Unchanged.trans {e : List Part} {s t u : State} (h : Unchanged e s t) (k : Unchanged e t u) : Unchanged e s u :=
  fun p hp => Part.same_trans (h p hp) (k p hp)

theorem Unchanged.mono {e f : List Part} {s t : State} (h : Unchanged e s t) (k : e ⊆ f) : Unchanged f s t :=
  fun p hp => h p (fun hq => hp (k hq))

end Sys2Proof.Machine
end

