-- ==== Sys2Proof/Laws/Reports.lean ====
section
/-! SUPPORT. What addr(), the byte stores and the register loads answer and report, in the terms of the claims (R61, R203 to R205). -/

namespace Sys2Proof.Machine

variable {s t u : State}

@[simp] theorem State.gotoPC_events (s : State) (v : Int) : (s.gotoPC v).events = (s.noteAddr v).events := rfl
@[simp] theorem State.gotoPC_err (s : State) (v : Int) : (s.gotoPC v).err = (s.noteAddr v).err := rfl
@[simp] theorem State.gotoI_events (s : State) (v : Int) : (s.gotoI v).events = (s.noteAddr v).events := rfl
@[simp] theorem State.gotoI_err (s : State) (v : Int) : (s.gotoI v).err = (s.noteAddr v).err := rfl

/-! ### addr() -/

/-- norm is R61's addr(), on every value an instruction can form. -/
theorem State.norm_addrResult (s : State) (v : Int) (hv : -0x1000 ≤ v ∧ v < 0x2000) : AddrResult s v (s.norm v) := by
  unfold AddrResult State.norm
  refine ⟨fun h => ?_, fun h hp => ?_, fun h hp => ?_⟩
  · rw [normalise_toNat_of_inRange h]
    simp only [inRange] at h
    omega
  · rw [hp, normalise_wrap, BitVec.toNat_ofInt]
    simp
    omega
  · rw [hp]
    unfold normalise
    rw [if_neg h]
    simp only
    split <;> simp

theorem AddrReports_nil (s : State) : AddrReports s s [] := by
  unfold AddrReports
  simp

/-- One addr() call. -/
theorem State.noteAddr_reports (s : State) (v : Int) : AddrReports s (s.noteAddr v) [v] := by
  unfold AddrReports
  by_cases h : inRange v
  · have e : (!decide (inRange v)) = false := by rw [decide_eq_true h]; rfl
    have g : ∀ w ∈ [v], inRange w := by intro w hw; rw [List.mem_singleton.mp hw]; exact h
    rw [State.noteAddr_of_inRange h]
    refine ⟨?_, (if_pos g).symm⟩
    simp only [List.filter_cons, decide_not, e]
    simp
  · have e : (!decide (inRange v)) = true := by rw [decide_eq_false h]; rfl
    have g : ¬ ∀ w ∈ [v], inRange w := fun k => h (k v (by simp))
    rw [State.noteAddr_of_not_inRange h]
    refine ⟨?_, (if_neg g).symm⟩
    simp only [List.filter_cons, decide_not, e]
    rfl

/-- Reports depend on the event list and ERR of the state after alone. -/
theorem AddrReports_congr {l : List Int} (h : AddrReports s t l) (h1 : u.events = t.events) (h2 : u.err = t.err) :
    AddrReports s u l := by
  unfold AddrReports at *
  rw [h1, h2]
  exact h

/-- The reports of two runs of addr() calls, one after the other. -/
theorem AddrReports_append {k l : List Int} (h1 : AddrReports s t k) (h2 : AddrReports t u l) :
    AddrReports s u (k ++ l) := by
  unfold AddrReports at *
  obtain ⟨a, b⟩ := h1
  obtain ⟨c, d⟩ := h2
  rw [c, a, d, b]
  constructor
  · rw [List.filter_append, List.map_append, List.append_assoc]
  · by_cases h : (∀ v ∈ k, inRange v)
    · rw [if_pos h]
      by_cases h' : (∀ v ∈ l, inRange v)
      · rw [if_pos h', if_pos]
        intro v hv
        rcases List.mem_append.mp hv with x | x
        · exact h v x
        · exact h' v x
      · rw [if_neg h', if_neg]
        exact fun z => h' (fun v hv => z v (List.mem_append_right _ hv))
    · have g : ¬ ∀ v ∈ k ++ l, inRange v := fun z => h (fun v hv => z v (List.mem_append_left l hv))
      rw [if_neg h, if_neg g]
      split <;> simp [BitVec.or_assoc]

/-- The values v, v + 1, ... of an access: the first and the rest. -/
theorem consecutive_succ (v : Int) (n : Nat) :
    (List.range (n + 1)).map (fun k : Nat => v + k) = [v] ++ (List.range n).map (fun k : Nat => v + 1 + k) := by
  rw [List.range_succ_eq_map]
  simp [Function.comp_def]
  intro a _
  omega

/-! ### storing bytes -/

/-- What storeBytes reports. -/
theorem State.storeBytes_reports (bs : List Byte) : ∀ (s : State) (v : Int),
    AddrReports s (s.storeBytes v bs) ((List.range bs.length).map (fun k : Nat => v + k)) := by
  induction bs with
  | nil => intro s v; exact AddrReports_nil s
  | cons b rest ih =>
    intro s v
    rw [State.storeBytes, List.length_cons, consecutive_succ]
    exact AddrReports_append (AddrReports_congr (u := s.storeAt v b) (s.noteAddr_reports v) rfl rfl) (ih _ _)

/-- What storeBytes stores. -/
theorem State.storeBytes_stores (bs : List Byte) : ∀ (s : State) (v : Int), Stores s (s.storeBytes v bs) v bs := by
  intro s v
  refine ⟨fun a h => State.readByte_storeBytes_of_ne bs s v a (fun k hk => (h k hk).symm), ?_⟩
  induction bs generalizing s v with
  | nil => intro k h; simp at h
  | cons b rest ih =>
    intro k hk hl
    rw [State.storeBytes]
    cases k with
    | zero =>
      rw [State.readByte_storeBytes_of_ne]
      · simp [State.storeAt]
      · intro k hk'
        have := hl (k + 1) (by omega) (by simp; omega)
        simpa [add_assoc, add_comm, add_left_comm] using this
    | succ k =>
      have := ih (s.storeAt v b) (v + 1) k (by simpa using hk) (by
        intro j hj hj'
        have := hl (j + 1) (by omega) (by simp; omega)
        simpa [add_assoc, add_comm, add_left_comm] using this)
      simpa [add_assoc, add_comm, add_left_comm] using this

/-! ### loading registers -/

/-- What loadRegs reports. -/
theorem State.loadRegs_reports (rs : List Reg) : ∀ (s : State) (v : Int),
    AddrReports s (s.loadRegs v rs) ((List.range rs.length).map (fun k : Nat => v + k)) := by
  induction rs with
  | nil => intro s v; exact AddrReports_nil s
  | cons r rest ih =>
    intro s v
    rw [State.loadRegs, List.length_cons, consecutive_succ]
    exact AddrReports_append
      (AddrReports_congr (u := (s.noteAddr v).setV r (s.readByte (s.norm v))) (s.noteAddr_reports v) rfl rfl) (ih _ _)

/-- What loadRegs loads into the k-th of different registers. -/
theorem State.getV_loadRegs (rs : List Reg) (hn : rs.Nodup) : ∀ (s : State) (v : Int) (k : Nat) (h : k < rs.length),
    (s.loadRegs v rs).getV rs[k] = s.readByte (s.norm (v + k)) := by
  induction rs with
  | nil => intro s v k h; simp at h
  | cons r rest ih =>
    intro s v k hk
    rw [State.loadRegs]
    cases k with
    | zero =>
      rw [State.getV_loadRegs_of_not_mem]
      · simp
      · exact (List.nodup_cons.mp hn).1
    | succ k =>
      have := ih (List.nodup_cons.mp hn).2 ((s.noteAddr v).setV r (s.readByte (s.norm v))) (v + 1) k (by simpa using hk)
      simpa [add_assoc, add_comm, add_left_comm] using this

@[simp] theorem regsUpTo_length (x : Reg) : (regsUpTo x).length = x.val + 1 := by
  revert x
  decide

theorem regsUpTo_nodup (x : Reg) : (regsUpTo x).Nodup := by
  revert x
  decide

theorem regsUpTo_getElem (x : Reg) (k : Nat) (h : k < (regsUpTo x).length) : ((regsUpTo x)[k]).val = k := by
  simp [regsUpTo]

end Sys2Proof.Machine
end

