-- ==== Sys2Proof/Tests/Slice0.lean ====
section
/-! SUPPORT. Tests of the model, and a witness for every statement that has hypotheses. Expected values are the spec's:
R83's selectors, and the vectors of 95_test_vectors.md, named in each theorem. -/

namespace Sys2Proof.Tests

open Sys2Proof Sys2Proof.Machine

/-! Each test is one kernel evaluation; they are checked one after the other, not in threads of their own. -/

section

set_option Elab.async false

/-! ### Helpers -/

/-- The state after reset, changed by `f`, with the word to run at PC. -/
def start (w : Nat) (f : State → State) : State := (f State.reset).withFetchWord 16 w

/-- The same under the alternative address policy. -/
def startClamp (w : Nat) (f : State → State) : State :=
  (f (State.resetWith { Config.params with addrPolicy := .clamp })).withFetchWord 16 w

/-- Something read off the next state; none where the step stops. -/
def ran {α : Type} (s : State) (g : State → α) : Option α :=
  match step s with
  | .next t => some (g t)
  | _ => none

/-- The next state of an instruction; the state itself where it stops. -/
def did (i : Instr) (s : State) : State :=
  match exec i s with
  | .next t => t
  | _ => s

/-- Every key held. -/
def allKeys : Vector Bool 16 := Vector.replicate 16 true

/-- The keys of a list held. -/
def keys (l : List Nat) : Vector Bool 16 := Vector.ofFn (fun k => l.contains k.val)

/-- The pixels at given rows and columns. -/
def pixels (l : List (Fin 32 × Fin 64)) (s : State) : List Bool := l.map (fun p => s.pixel p.1 p.2)

/-! ### WellFormed: one check, one ill-formed term -/

theorem test_wellFormed_refuses_height_16 : (Instr.drw 0 0 16).wellFormed = false := by decide
theorem test_wellFormed_accepts_height_15 : (Instr.drw 0 0 15).wellFormed = true := by decide

/-! ### Decode: every constructor, words written from the selectors of R83 -/

theorem test_decode_display :
    decode 0x00E0 = .instr .cls ∧
    decode 0b1101000100101111 = .instr (.drw 1 2 15) ∧
    decode 0xD010 = .instr (.drw 0 1 0) := by
  decide +kernel

theorem test_decode_control :
    decode 0x00EE = .instr .ret ∧
    decode 0b0001101010111100 = .instr (.jp 0xABC) ∧
    decode 0x2210 = .instr (.call 0x210) ∧
    decode 0xB3F0 = .instr (.jpV0 0x3F0) := by
  decide +kernel

theorem test_decode_skips :
    decode 0x3142 = .instr (.seImm 1 0x42) ∧
    decode 0x4142 = .instr (.sneImm 1 0x42) ∧
    decode 0x5120 = .instr (.seReg 1 2) ∧
    decode 0b1001000100100000 = .instr (.sneReg 1 2) ∧
    decode 0xE19E = .instr (.skp 1) ∧
    decode 0xE1A1 = .instr (.sknp 1) := by
  decide +kernel

theorem test_decode_alu :
    decode 0b0110101001000010 = .instr (.ldImm 10 0x42) ∧
    decode 0x7105 = .instr (.addImm 1 0x05) ∧
    decode 0x8120 = .instr (.ldReg 1 2) ∧
    decode 0x8121 = .instr (.orReg 1 2) ∧
    decode 0x8122 = .instr (.andReg 1 2) ∧
    decode 0x8123 = .instr (.xorReg 1 2) ∧
    decode 0x8124 = .instr (.addReg 1 2) ∧
    decode 0x8125 = .instr (.sub 1 2) ∧
    decode 0x8126 = .instr (.shr 1) ∧
    decode 0x8127 = .instr (.subn 1 2) ∧
    decode 0x812E = .instr (.shl 1) ∧
    decode 0xC30F = .instr (.rnd 3 0x0F) := by
  decide +kernel

theorem test_decode_index :
    decode 0xA123 = .instr (.ldI 0x123) ∧
    decode 0xF21E = .instr (.addIVx 2) ∧
    decode 0b1111001000101001 = .instr (.ldFVx 2) ∧
    decode 0xF033 = .instr (.ldBVx 0) ∧
    decode 0xF155 = .instr (.ldMemVx 1) ∧
    decode 0xF265 = .instr (.ldVxMem 2) := by
  decide +kernel

theorem test_decode_timers :
    decode 0xF507 = .instr (.ldVxDt 5) ∧
    decode 0xF30A = .instr (.ldVxK 3) ∧
    decode 0xF515 = .instr (.ldDtVx 5) ∧
    decode 0b1111010100011000 = .instr (.ldStVx 5) := by
  decide +kernel

/-- V-DEC-2, 5, 6, 7, V-STP-2, 3, 4, V-EXC-3: unassigned words. -/
theorem test_decode_unassigned :
    decode 0x0000 = .nop 0x0000 ∧
    decode 0x01E0 = .nop 0x01E0 ∧
    decode 0x00FD = .nop 0x00FD ∧
    decode 0x5121 = .nop 0x5121 ∧
    decode 0x8128 = .nop 0x8128 ∧
    decode 0x812D = .nop 0x812D ∧
    decode 0x812F = .nop 0x812F ∧
    decode 0x9121 = .nop 0x9121 ∧
    decode 0xE19F = .nop 0xE19F ∧
    decode 0xF030 = .nop 0xF030 ∧
    decode 0xFFFF = .nop 0xFFFF := by
  decide +kernel

theorem test_decodeBytes_rejects_by_name :
    decodeBytes [0x61] = .truncated ∧ decodeBytes [0x61, 0x23, 0x99] = .word (.instr (.ldImm 1 0x23)) [0x99] := by
  decide +kernel

theorem test_encode_writes_the_selectors :
    encode (.drw 1 2 15) = 0xD12F ∧ encode (.jp 0xABC) = 0x1ABC ∧ encode (.ldImm 10 0x42) = 0x6A42 ∧
    encode (.shl 1) = 0x810E ∧ encode (.ldMemVx 1) = 0xF155 ∧ encodeBytes (.call 0x210) = [0x22, 0x10] := by
  decide +kernel

theorem test_decodeTableWord : decodeTableWord 16 0x6A42 = some (.ldImm 10 0x42) ∧ decodeTableWord 16 0x5121 = none := by
  decide +kernel

/-! ### One step on a small state, vectors of 95_test_vectors.md -/

/-- V-STP-5, step 1 -/
theorem test_step_unassigned_word :
    ran (start 0x0000 (fun s => s.setPC 0xFFE)) (fun t => (t.pc, t.events)) =
      some (0x000, [.addrOutOfRange 0x1000]) := by decide +kernel

/-- V-STP-7 -/
theorem test_step_fetch_wraps :
    ran (start 0x6123 (fun s => s.setPC 0xFFF)) (fun t => (t.getV 1, t.pc, t.events)) =
      some (0x23, 0x001, [.addrOutOfRange 0x1000, .addrOutOfRange 0x1001]) := by decide +kernel

/-- V-STP-8 -/
theorem test_step_fetch_clamps :
    ran (startClamp 0x6161 (fun s => s.setPC 0xFFF)) (fun t => (t.getV 1, t.pc)) =
      some (0x61, 0xFFF) := by decide +kernel

/-- R36: an instruction other than Cxnn consumes it too -/
theorem test_step_consumes_the_random_byte :
    ran (start 0x6A42 (fun s => { s with rndIn := [1, 2] })) (fun t => (t.rndIn, t.draws)) =
      some ([2], 1) := by decide +kernel

/-- V-CF-1 -/
theorem test_JP :
    ran (start 0x1204 (fun s => s.setPC 0x20A)) (fun t => t.pc) =
      some 0x204 := by decide +kernel

/-- V-CF-3 -/
theorem test_CALL :
    ran (start 0x2210 (fun s => s.setPC 0x204)) (fun t => (t.pc, t.sp, t.stack[0])) =
      some (0x210, 1, 0x206) := by decide +kernel

/-- V-CF-6 -/
theorem test_CALL_full :
    ran (start 0x2300 (fun s => { s with sp := 16, stack := Vector.replicate 16 0x222 })) (fun t => (t.pc, t.sp, t.events, t.err)) =
      some (0x202, 16, [.stackOverflow 0x202], 1) := by decide +kernel

/-- V-CF-4 -/
theorem test_RET :
    ran (start 0x00EE (fun s => { s with pc := 0x210, sp := 1, stack := s.stack.set 0 0x206 })) (fun t => (t.pc, t.sp, t.stack[0])) =
      some (0x206, 0, 0x206) := by decide +kernel

/-- V-CF-5 -/
theorem test_RET_empty :
    ran (start 0x00EE (fun s => s)) (fun t => (t.pc, t.sp, t.events, t.err)) =
      some (0x202, 0, [.stackUnderflow], 2) := by decide +kernel

/-- V-CF-9 -/
theorem test_JP_V0 :
    ran (start 0xB3F0 (fun s => (s.setV 0 0x01).setV 3 0x50)) (fun t => t.pc) =
      some 0x3F1 := by decide +kernel

/-- V-CF-10 -/
theorem test_JP_V0_wraps :
    ran (start 0xBFFF (fun s => s.setV 0 0xFF)) (fun t => (t.pc, t.events)) =
      some (0x0FE, [.addrOutOfRange 0x10FE]) := by decide +kernel

/-- V-SKP-1 -/
theorem test_SE_IMM :
    ran (start 0x3142 (fun s => s.setV 1 0x42)) (fun t => t.pc) =
      some 0x204 := by decide +kernel

/-- V-SKP-17 -/
theorem test_SE_IMM_wraps :
    ran (start 0x3000 (fun s => s.setPC 0xFFC)) (fun t => (t.pc, t.events)) =
      some (0x000, [.addrOutOfRange 0x1000]) := by decide +kernel

/-- V-SKP-3 -/
theorem test_SNE_IMM :
    ran (start 0x4142 (fun s => s.setV 1 0x42)) (fun t => t.pc) =
      some 0x202 := by decide +kernel

/-- V-SKP-4 -/
theorem test_SNE_IMM_taken :
    ran (start 0x4142 (fun s => s.setV 1 0x41)) (fun t => t.pc) =
      some 0x204 := by decide +kernel

/-- V-SKP-5 -/
theorem test_SE_REG :
    ran (start 0x5120 (fun s => (s.setV 1 3).setV 2 3)) (fun t => t.pc) =
      some 0x204 := by decide +kernel

/-- V-SKP-6 -/
theorem test_SE_REG_not_taken :
    ran (start 0x5120 (fun s => (s.setV 1 3).setV 2 4)) (fun t => t.pc) =
      some 0x202 := by decide +kernel

/-- V-SKP-7 -/
theorem test_SNE_REG :
    ran (start 0x9120 (fun s => (s.setV 1 3).setV 2 3)) (fun t => t.pc) =
      some 0x202 := by decide +kernel

/-- V-SKP-8 -/
theorem test_SNE_REG_taken :
    ran (start 0x9120 (fun s => (s.setV 1 3).setV 2 4)) (fun t => t.pc) =
      some 0x204 := by decide +kernel

/-- V-SKP-11 -/
theorem test_SKP :
    ran (start 0xE19E (fun s => (s.setV 1 5).setKeys (keys [5]))) (fun t => t.pc) =
      some 0x204 := by decide +kernel

/-- V-SKP-15 -/
theorem test_SKP_above_15 :
    ran (start 0xE19E (fun s => (s.setV 1 0x10).setKeys allKeys)) (fun t => (t.pc, t.events, t.err)) =
      some (0x202, [.keyOutOfRange 0x10], 8) := by decide +kernel

/-- V-SKP-13 -/
theorem test_SKNP :
    ran (start 0xE1A1 (fun s => (s.setV 1 5).setKeys (keys [5]))) (fun t => t.pc) =
      some 0x202 := by decide +kernel

/-- V-SKP-16 -/
theorem test_SKNP_above_15 :
    ran (start 0xE1A1 (fun s => s.setV 1 0x10)) (fun t => (t.pc, t.events)) =
      some (0x204, [.keyOutOfRange 0x10]) := by decide +kernel

/-- V-ALU-1 -/
theorem test_LD_IMM :
    ran (start 0x6A42 (fun s => s)) (fun t => (t.getV 10, t.pc)) =
      some (0x42, 0x202) := by decide +kernel

/-- V-ALU-2 -/
theorem test_LD_IMM_VF :
    ran (start 0x6F99 (fun s => s.setV 15 0x01)) (fun t => t.getV 15) =
      some 0x99 := by decide +kernel

/-- V-ALU-4 -/
theorem test_ADD_IMM :
    ran (start 0x71FF (fun s => (s.setV 1 0x01).setV 15 0x77)) (fun t => (t.getV 1, t.getV 15)) =
      some (0x00, 0x77) := by decide +kernel

/-- V-ALU-5 -/
theorem test_LD_REG :
    ran (start 0x8120 (fun s => (s.setV 1 0x11).setV 2 0x22)) (fun t => (t.getV 1, t.getV 2)) =
      some (0x22, 0x22) := by decide +kernel

/-- V-ALU-6 -/
theorem test_OR :
    ran (start 0x8121 (fun s => ((s.setV 1 0xF0).setV 2 0x0F).setV 15 0x55)) (fun t => (t.getV 1, t.getV 15)) =
      some (0xFF, 0x55) := by decide +kernel

/-- V-ALU-42 -/
theorem test_OR_VF :
    ran (start 0x8F11 (fun s => (s.setV 15 0x0F).setV 1 0xF0)) (fun t => t.getV 15) =
      some 0xFF := by decide +kernel

/-- V-ALU-7 -/
theorem test_AND :
    ran (start 0x8122 (fun s => (s.setV 1 0xF0).setV 2 0x3C)) (fun t => t.getV 1) =
      some 0x30 := by decide +kernel

/-- V-ALU-8 -/
theorem test_XOR :
    ran (start 0x8123 (fun s => (s.setV 1 0xF0).setV 2 0x3C)) (fun t => t.getV 1) =
      some 0xCC := by decide +kernel

/-- V-ALU-9 -/
theorem test_ADD_REG :
    ran (start 0x8124 (fun s => (s.setV 1 0xFF).setV 2 0x01)) (fun t => (t.getV 1, t.getV 15)) =
      some (0x00, 1) := by decide +kernel

/-- V-ALU-30 -/
theorem test_ADD_REG_VF :
    ran (start 0x8F14 (fun s => (s.setV 15 0x80).setV 1 0x90)) (fun t => t.getV 15) =
      some 0x10 := by decide +kernel

/-- V-ALU-14: equal operands -/
theorem test_SUB :
    ran (start 0x8125 (fun s => (s.setV 1 0x07).setV 2 0x07)) (fun t => (t.getV 1, t.getV 15)) =
      some (0x00, 0) := by decide +kernel

/-- V-ALU-33 -/
theorem test_SUB_VF :
    ran (start 0x8F15 (fun s => (s.setV 15 0x05).setV 1 0x03)) (fun t => t.getV 15) =
      some 0xFE := by decide +kernel

/-- V-ALU-22: V2 is not read -/
theorem test_SHR :
    ran (start 0x8126 (fun s => s.setV 1 0x81)) (fun t => (t.getV 1, t.getV 15)) =
      some (0x40, 1) := by decide +kernel

/-- V-ALU-36 -/
theorem test_SHR_VF :
    ran (start 0x8F16 (fun s => s.setV 15 0x03)) (fun t => t.getV 15) =
      some 0 := by decide +kernel

/-- V-ALU-19: equal operands -/
theorem test_SUBN :
    ran (start 0x8127 (fun s => (s.setV 1 0x07).setV 2 0x07)) (fun t => (t.getV 1, t.getV 15)) =
      some (0x00, 1) := by decide +kernel

/-- V-ALU-38 -/
theorem test_SUBN_VF :
    ran (start 0x81F7 (fun s => (s.setV 1 0x05).setV 15 0x09)) (fun t => (t.getV 1, t.getV 15)) =
      some (0xFC, 1) := by decide +kernel

/-- V-ALU-20 -/
theorem test_SHL :
    ran (start 0x812E (fun s => s.setV 1 0x81)) (fun t => (t.getV 1, t.getV 15)) =
      some (0x02, 1) := by decide +kernel

/-- V-ALU-40 -/
theorem test_SHL_VF :
    ran (start 0x8F1E (fun s => s.setV 15 0x81)) (fun t => t.getV 15) =
      some 0x02 := by decide +kernel

/-- V-ALU-23 -/
theorem test_RND :
    ran (start 0xC30F (fun s => { s with rndIn := [0xAB] })) (fun t => t.getV 3) =
      some 0x0B := by decide +kernel

/-- V-IDX-1 -/
theorem test_LD_I :
    ran (start 0xA123 (fun s => s)) (fun t => t.i) =
      some 0x123 := by decide +kernel

/-- V-IDX-3 -/
theorem test_ADD_I_VX :
    ran (start 0xF21E (fun s => (s.setI 0xFF0).setV 2 0x20)) (fun t => (t.i, t.getV 15, t.events)) =
      some (0x010, 0, [.addrOutOfRange 0x1010]) := by decide +kernel

/-- V-IDX-4 -/
theorem test_ADD_I_VX_clamp :
    ran (startClamp 0xF21E (fun s => (s.setI 0xFF0).setV 2 0x20)) (fun t => (t.i, t.events)) =
      some (0xFFF, [.addrOutOfRange 0x1010]) := by decide +kernel

/-- V-IDX-5 -/
theorem test_LD_F_VX :
    ran (start 0xF229 (fun s => s.setV 2 0x07)) (fun t => t.i) =
      some 0x073 := by decide +kernel

/-- V-IDX-6b -/
theorem test_LD_F_VX_unmasked :
    ran (start 0xF229 (fun s => s.setV 2 0xFF)) (fun t => t.i) =
      some 0x54B := by decide +kernel

/-- V-IDX-11 -/
theorem test_LD_B_VX :
    ran (start 0xF033 (fun s => (s.setI 0xFFE).setV 0 128)) (fun t => (t.readByte 0xFFE, t.readByte 0xFFF, t.readByte 0x000, t.events)) =
      some (1, 2, 8, [.addrOutOfRange 0x1000]) := by decide +kernel

/-- V-IDX-13 -/
theorem test_LD_B_VX_clamp :
    ran (startClamp 0xF033 (fun s => (s.setI 0xFFE).setV 0 128)) (fun t => (t.readByte 0xFFE, t.readByte 0xFFF)) =
      some (1, 8) := by decide +kernel

/-- V-IDX-14 -/
theorem test_LD_MEM_VX :
    ran (start 0xF155 (fun s => ((s.setI 0x400).setV 0 0xFF).setV 1 0x81)) (fun t => (t.readByte 0x400, t.readByte 0x401, t.readByte 0x402, t.i)) =
      some (0xFF, 0x81, 0, 0x400) := by decide +kernel

/-- V-IDX-17 -/
theorem test_LD_MEM_VX_clamp :
    ran (startClamp 0xF355 (fun s => ((((s.setI 0xFFE).setV 0 1).setV 1 2).setV 2 3).setV 3 4)) (fun t => (t.readByte 0xFFE, t.readByte 0xFFF, t.readByte 0x000)) =
      some (1, 4, 0) := by decide +kernel

/-- V-IDX-18 -/
theorem test_LD_VX_MEM :
    ran (start 0xF265 (fun s => (s.setI 0x300).storeBytes 0x300 [2, 5, 1])) (fun t => (t.getV 0, t.getV 1, t.getV 2, t.getV 3, t.i)) =
      some (2, 5, 1, 0, 0x300) := by decide +kernel

/-- V-IDX-20 -/
theorem test_LD_VX_MEM_wraps :
    ran (start 0xF165 (fun s => ((s.setI 0xFFF).writeByte 0xFFF 0x11).writeByte 0x000 0x22)) (fun t => (t.getV 0, t.getV 1, t.events)) =
      some (0x11, 0x22, [.addrOutOfRange 0x1000]) := by decide +kernel

/-- V-TMR-1 -/
theorem test_LD_VX_DT :
    ran (start 0xF507 (fun s => s.setDT 0x3C)) (fun t => (t.getV 5, t.dt)) =
      some (0x3C, 0x3C) := by decide +kernel

/-- V-TMR-2 -/
theorem test_LD_DT_VX :
    ran (start 0xF515 (fun s => s.setV 5 0x10)) (fun t => t.dt) =
      some 0x10 := by decide +kernel

/-- V-TMR-3 -/
theorem test_LD_ST_VX :
    ran (start 0xF518 (fun s => s.setV 5 0x01)) (fun t => (t.st, t.soundActive)) =
      some (1, true) := by decide +kernel

/-- V-TMR-6 -/
theorem test_LD_VX_K :
    ran (start 0xF30A (fun s => (s.setPC 0x220).setKeys (keys [4, 9]))) (fun t => (t.getV 3, t.pc)) =
      some (0x04, 0x222) := by decide +kernel

/-- V-TMR-8 -/
theorem test_LD_VX_K_rewinds :
    ran (start 0xF30A (fun s => s.setPC 0xFFE)) (fun t => (t.pc, t.events)) =
      some (0xFFE, [.addrOutOfRange 0x1000, .addrOutOfRange (-2)]) := by decide +kernel

/-- V-DSP-1 -/
theorem test_CLS :
    ran (start 0x00E0 (fun s => ((s.setPixel 0 0 true).setPixel 10 10 true).setPixel 31 63 true)) (fun t => pixels [(0, 0), (10, 10), (31, 63)] t) =
      some [false, false, false] := by decide +kernel

/-- V-DSP-4: clipped at both edges -/
theorem test_DRW :
    ran (start 0xD014 (fun s => (((s.setI 0x300).setV 0 60).setV 1 30).storeBytes 0x300 [0xFF, 0xFF, 0xFF, 0xFF])) (fun t => (pixels [(30, 59), (30, 60), (31, 63), (30, 0), (0, 60), (0, 0)] t, t.getV 15)) =
      some ([false, true, true, false, false, false], 0) := by decide +kernel

/-- V-DSP-10 -/
theorem test_DRW_collides :
    ran (start 0xD011 (fun s => ((s.setI 0x300).setPixel 0 0 true).writeByte 0x300 0xC0)) (fun t => (pixels [(0, 0), (0, 1), (0, 2)] t, t.getV 15)) =
      some ([false, true, false], 1) := by decide +kernel

/-! ### The host's operations -/

/-- V-RST-1, with the default FONT -/
theorem test_RESET : (did (.ldImm 1 2) State.reset).resetOp = State.reset ∧ State.reset.readByte 0x050 = 0xF0 ∧
    State.reset.readByte 0x09F = 0x80 ∧ State.reset.readByte 0x0A0 = 0 := by decide +kernel

/-- V-RST-2, V-RST-5 -/
theorem test_LOAD : (State.reset.load [0x12, 0x00]).1 = .ok ∧ (State.reset.load [0x12, 0x00]).2.fetchWord = 0x1200 ∧
    State.reset.load [] = (.sourceEmpty, State.reset) := by decide +kernel

/-- V-RST-6 -/
theorem test_STEP_after_failed_LOAD :
    Session.perform (.step 0) (.failed State.reset) = .refused (.notAdmitted .failed .step) := rfl

/-- V-TMR-11 -/
theorem test_TICK : (State.reset.setST 2).tick.st = 1 ∧ (State.reset.setST 2).tick.dt = 0 := by decide +kernel

theorem test_core_step : Sys2Proof.core.step = step := rfl

/-! ### Witnesses: concrete states and operands that meet the hypotheses of each statement, clause by clause -/

theorem witness_DecodeOfEncodeIsTheInstruction :
    (Instr.drw 1 2 15).wellFormed = true ∧ (Instr.drw 1 2 0).wellFormed = true := by decide +kernel

theorem witness_EncodeOfDecodeIsTheWord :
    decode 0x6A42 = .instr (.ldImm 10 0x42) ∧ encode (.ldImm 10 0x42) = 0x6A42 ∧
    decode 0x8126 = .instr (.shr 1) ∧ encode (.shr 1) = 0x8126 &&& 0xFF0F := by decide +kernel

theorem witness_NoTwoTableRowsOverlap :
    (⟨7, 0x5000, 0xF00F⟩ : OpcodeRow) ∈ opcodeTable ∧ (⟨7, 0x5000, 0xF00F⟩ : OpcodeRow).selects 0x5120 = true := by decide +kernel

theorem witness_UnassignedWordsAreThoseOfTheTable :
    decode 0x0000 = .nop 0x0000 ∧ (fieldOp 0x0000 = 0x0 ∧ (0x0000 : Word) ≠ 0x00E0) ∧ decode 0x501F = .nop 0x501F ∧
    decode 0x800F = .nop 0x800F ∧ decode 0x8008 = .nop 0x8008 ∧ decode 0x9001 = .nop 0x9001 ∧
    decode 0xE09F = .nop 0xE09F ∧ decode 0xF066 = .nop 0xF066 := by decide +kernel

theorem witness_StepRunsTheDecodedInstruction :
    decode (start 0x6A42 id).fetchWord = .instr (.ldImm 10 0x42) := by decide +kernel

/-- The clauses of AddrResult, which this and the statements on skips, jumps, I and Fx0A use, at the ends of the range. -/
theorem witness_FetchReadsTheWordAndAdvancesPC :
    (inRange 0xFFF ∧ (State.reset.norm 0xFFF).toNat = 0xFFF) ∧ (¬ inRange 0x1000 ∧ (State.reset.norm 0x1000).toNat = 0) ∧
    (startClamp 0 id).norm 0x1000 = 0xFFF ∧ ¬ inRange (-1) ∧ (startClamp 0 id).norm (-1) = 0 ∧ State.reset.norm (-1) = 0xFFF := by decide +kernel

theorem witness_UnassignedWordOnlyAdvancesPC :
    decode (start 0x5121 id).fetchWord = .nop 0x5121 := by decide +kernel

theorem witness_OnlyRndReadsTheRandomByte :
    ∀ x nn, Instr.cls ≠ .rnd x nn := fun _ _ h => by cases h

theorem witness_OnlyFx15AndFx18ChangeTheTimers :
    ran (start 0xF515 (fun s => s.setV 5 0x10)) (fun t => decide (t.dt ≠ (start 0xF515 (fun s => s.setV 5 0x10)).dt)) = some true ∧
    ran (start 0xF518 (fun s => s.setV 5 0x10)) (fun t => decide (t.st ≠ (start 0xF518 (fun s => s.setV 5 0x10)).st)) = some true := by decide +kernel

theorem witness_PushStoresOrReportsOverflow :
    ({ State.reset with sp := 15 }.sp.val = (15 : Fin 16).val) ∧ { State.reset with sp := 16 }.sp.val = 16 ∧
    State.reset.sp.val = (0 : Fin 16).val := by decide +kernel

theorem witness_CallPushesTheReturnAddress :
    (did (.call 0x300) { State.reset with sp := 15 }).sp.val = 16 ∧ (did (.call 0x300) { State.reset with sp := 15 }).pc = 0x300 ∧
    (did (.call 0x300) { State.reset with sp := 16 }).pc = 0x200 := by decide +kernel

theorem witness_ReturnPopsTheTopEntry :
    ({ State.reset with sp := 16 }.sp.val = (15 : Fin 16).val + 1) ∧ ({ State.reset with sp := 1 }.sp.val = (0 : Fin 16).val + 1) ∧
    State.reset.sp.val = 0 := by decide +kernel

theorem witness_ReturnUndoesCall :
    ({ State.reset with sp := 15 }.sp.val < 16) ∧ ∃ u : State, u.sp = (did (.call 0x300) { State.reset with sp := 15 }).sp ∧
    u.stack = (did (.call 0x300) { State.reset with sp := 15 }).stack := ⟨by decide, _, rfl, rfl⟩

theorem witness_RegisterSkipsFollowTheirCondition :
    State.reset.getV 1 = 0 ∧ State.reset.getV 1 ≠ 0x42 ∧ State.reset.getV 1 = State.reset.getV 2 ∧
    (State.reset.setV 2 4).getV 1 ≠ (State.reset.setV 2 4).getV 2 := by decide +kernel

theorem witness_KeySkipsFollowTheKey :
    KeyHeld (State.reset.setKeys allKeys) 15 ∧ ¬ KeyHeld (State.reset.setKeys allKeys) 16 ∧ ¬ KeyHeld State.reset 15 := by
  unfold KeyHeld
  decide +kernel

/-- Also the witness of the hypothesis x ≠ vF of SubtractionsWriteFlagThenDifference, ShiftsWriteFlagThenResult and r ≠ vF of FlagAliasingTable. -/
theorem witness_AddRegistersWritesSumAndCarry :
    ((14 : Reg) ≠ vF) ∧ (did (.addReg 14 1) ((State.reset.setV 14 0xFF).setV 1 1)).getV vF = 1 ∧
    (did (.addReg 14 1) ((State.reset.setV 14 0xFE).setV 1 1)).getV vF = 0 := by decide +kernel

theorem witness_SubtractionsWriteFlagThenDifference :
    ((0 : Reg) ≠ vF) ∧ (did (.sub 0 1) (State.reset.setV 1 1)).getV 0 = 0xFF ∧ (did (.subn 0 1) (State.reset.setV 1 1)).getV vF = 1 := by decide +kernel

theorem witness_ShiftsWriteFlagThenResult :
    ((0 : Reg) ≠ vF) ∧ (did (.shl 0) (State.reset.setV 0 0x80)).getV vF = 1 ∧ (did (.shr 0) (State.reset.setV 0 0x80)).getV vF = 0 := by decide +kernel

theorem witness_FlagAliasingTable :
    ((1 : Reg) ≠ vF) ∧ (did (.subn 1 15) ((State.reset.setV 1 5).setV 15 9)).getV 1 = 0xFC := by decide +kernel

theorem witness_RandomByteIsMasked :
    ({ State.reset with rndIn := [0xFF] }.rndIn = 0xFF :: []) ∧ (did (.rnd 3 0x0F) { State.reset with rndIn := [0xFF] }).getV 3 = 0x0F := by decide +kernel

/-- The two clauses of Stores: an address outside the stored bytes, and a byte that no later one overwrites; under clamp the last address is shared. -/
theorem witness_BcdStoresThreeDigits :
    (∀ k : Nat, k < 3 → (0x002 : Addr) ≠ ((State.reset.setI 0xFFF).norm (0xFFF + k))) ∧
    (∀ j : Nat, 0 < j → j < 3 → (State.reset.setI 0xFFF).norm (0xFFF + j) ≠ (State.reset.setI 0xFFF).norm (0xFFF + (0 : Nat))) ∧
    (startClamp 0 (fun s => s.setI 0xFFE)).norm (0xFFE + (2 : Nat)) = (startClamp 0 (fun s => s.setI 0xFFE)).norm (0xFFE + (1 : Nat)) := by
  refine ⟨by decide +kernel, fun j h0 h3 => ?_, by decide +kernel⟩
  rcases (by omega : j = 1 ∨ j = 2) with rfl | rfl <;> decide +kernel

theorem witness_StoreRegistersWritesXPlusOneBytes :
    (15 : Reg).val < [(0 : Byte), 1, 2, 3, 4, 5, 6, 7, 8, 9, 10, 11, 12, 13, 14, 15].length ∧
    (did (.ldMemVx 15) ((State.reset.setI 0x300).setV 15 9)).readByte 0x30F = 9 := by decide +kernel

theorem witness_LoadRegistersReadsXPlusOneBytes :
    ((15 : Reg) ≤ 15) ∧ ¬ ((1 : Reg) ≤ 0) ∧ (did (.ldVxMem 15) ((State.reset.setI 0x300).writeByte 0x30F 9)).getV 15 = 9 := by decide +kernel

/-- I = 0xFFF and x = 1 under clamp, the example of 95_test_vectors.md: both registers reload V1. -/
def dumped : State := did (.ldMemVx 1) (startClamp 0 (fun s => ((s.setI 0xFFF).setV 0 0x11).setV 1 0x22))

theorem witness_DumpThenLoadRestoresTheRegisters :
    (∃ u : State, (∀ a, u.readByte a = dumped.readByte a) ∧ u.i = dumped.i ∧ u.cfg = dumped.cfg) ∧
    State.reset.cfg.addrPolicy = .wrap ∧ ((0 : Reg) ≤ 1) ∧
    ((startClamp 0 (fun s => s.setI 0xFFE)).cfg.addrPolicy = .clamp ∧ (startClamp 0 (fun s => s.setI 0xFFE)).i.toNat + 1 = 0xFFF) ∧
    dumped.cfg.addrPolicy = .clamp ∧ dumped.i.toNat + 1 > 0xFFF ∧
    (did (.ldVxMem 1) dumped).getV 0 = 0x22 ∧ (did (.ldVxMem 1) dumped).getV 1 = 0x22 := ⟨⟨dumped, fun _ => rfl, rfl, rfl⟩, by decide +kernel⟩

theorem witness_StoredWordIsFetchedNext :
    (1 ≤ (1 : Reg).val) ∧ ((State.reset.setPC 0xFFE).setI 0xFFE).i = ((State.reset.setPC 0xFFE).setI 0xFFE).pc ∧
    ((State.reset.setPC 0xFFE).setI 0xFFE).pc.toNat + 1 ≤ 0xFFF := by decide +kernel

theorem witness_KeyWaitTakesTheLowestKeyOrRewinds :
    ((State.reset.setKeys (keys [15])).key[(15 : Fin 16)] = true ∧
      ∀ j : Fin 16, j < 15 → (State.reset.setKeys (keys [15])).key[j] = false) ∧
    ∀ k : Fin 16, State.reset.key[k] = false := by decide +kernel

theorem witness_KeyWaitReexecutesItself :
    ((start 0xF30A (fun s => s.setPC 0xFFE)).cfg.addrPolicy = .wrap) ∧
    decode (start 0xF30A (fun s => s.setPC 0xFFE)).fetchWord = .instr (.ldVxK 3) ∧
    ∀ k : Fin 16, (start 0xF30A (fun s => s.setPC 0xFFE)).key[k] = false := by decide +kernel

/-- One sprite row 0xC0 over a lit pixel at the origin. -/
def sprite : State := ((State.reset.setI 0x300).writeByte 0x300 0xC0).setPixel 0 0 true

theorem witness_DrawTogglesExactlyTheSpriteBits :
    sprite.spriteCovers 0 1 1 0 0 ∧ sprite.spriteCovers 0 1 1 0 1 ∧ ¬ sprite.spriteCovers 0 1 1 0 2 ∧ ¬ sprite.spriteCovers 0 1 1 1 0 ∧
    (∃ r c, sprite.spriteCovers 0 1 1 r c ∧ sprite.pixel r c = true) ∧
    ¬ ∃ r c, State.reset.spriteCovers 0 1 0 r c ∧ State.reset.pixel r c = true := by
  refine ⟨by unfold State.spriteCovers; decide +kernel, by unfold State.spriteCovers; decide +kernel,
    by unfold State.spriteCovers; decide +kernel, by unfold State.spriteCovers; decide +kernel,
    ⟨0, 0, by unfold State.spriteCovers; decide +kernel, by decide +kernel⟩, ?_⟩
  rintro ⟨r, c, ⟨h, k, -⟩, -⟩
  exact absurd k (by omega)

/-- The second draw with x' = 4, where V4 = 64 gives the same column. -/
theorem witness_DrawTwiceRestoresTheFramebuffer :
    (∀ r c, (did (.drw 0 1 1) sprite).pixel r c = (did (.drw 0 1 1) sprite).pixel r c) ∧
    (∀ a, ((did (.drw 0 1 1) sprite).setV 4 64).readByte a = (did (.drw 0 1 1) sprite).readByte a) ∧
    ((did (.drw 0 1 1) sprite).setV 4 64).i = (did (.drw 0 1 1) sprite).i ∧
    ((did (.drw 0 1 1) sprite).setV 4 64).cfg = (did (.drw 0 1 1) sprite).cfg ∧
    (((did (.drw 0 1 1) sprite).setV 4 64).getV 4).toNat % 64 = (sprite.getV 0).toNat % 64 ∧
    (((did (.drw 0 1 1) sprite).setV 4 64).getV 1).toNat % 32 = (sprite.getV 1).toNat % 32 := ⟨fun _ _ => rfl, fun _ => rfl, rfl, rfl, by decide +kernel⟩

/-- Also the witness of HostOperationsKeepTheInvariant. -/
theorem witness_StepKeepsTheInvariant :
    State.reset.Inv ∧ ran State.reset (fun t => t.pc) = some 0x202 ∧ Memory.wf Config.defaultFont [(0x300, 1)] = true := ⟨⟨rfl, fun _ h => by cases h⟩, by decide +kernel⟩

theorem witness_QuietStepsDoNotDependOnThePolicy :
    ran (start 0x6A42 id) (fun t => hasAddrEvent t.events) = some false ∧
    ran (start 0x6A42 (fun s => s.setPC 0xFFE)) (fun t => hasAddrEvent t.events) = some true := by decide +kernel

theorem witness_CanonicalMemoriesThatReadAlikeAreEqual :
    Memory.wf Config.defaultFont (Memory.write Config.defaultFont [(0x300, 1)] 0x200 2) = true ∧
    Memory.wf Config.defaultFont [(0x200, 2), (0x300, 1)] = true ∧ Memory.wf Config.defaultFont [(0x050, 0xF0)] = false := by decide +kernel

theorem witness_SelfJumpIsTheEndOfTheRun :
    (start 0x1FFD (fun s => s.setPC 0xFFD)).atEnd 0xFFD ∧ (start 0x1FFE (fun s => s.setPC 0xFFE)).atEnd 0xFFE ∧
    (start 0x1FFF (fun s => s.setPC 0xFFF)).atEnd 0xFFF := by
  unfold State.atEnd
  decide +kernel

theorem witness_ResetGivesTheResetState :
    ((0x050 : Nat) ≤ (0x050 : Addr).toNat ∧ (0x050 : Addr).toNat ≤ 0x09F) ∧ (0x09F : Addr).toNat ≤ 0x09F ∧
    ¬ (0x050 ≤ (0x04F : Addr).toNat ∧ (0x04F : Addr).toNat ≤ 0x09F) ∧ ¬ (0x050 ≤ (0x0A0 : Addr).toNat ∧ (0x0A0 : Addr).toNat ≤ 0x09F) := by decide +kernel

/-- Lengths 0, 1, 3584 and 3585, and the addresses on both sides of a 1-byte program. -/
theorem witness_LoadCopiesTheProgramOrNothing :
    ([] : List Byte).length = 0 ∧ 3584 < (List.replicate 3585 (7 : Byte)).length ∧ 1 ≤ [(7 : Byte)].length ∧
    1 ≤ (List.replicate 3584 (7 : Byte)).length ∧ (List.replicate 3584 (7 : Byte)).length ≤ 3584 ∧
    (0x1FF : Addr).toNat < 0x200 ∧ (0x200 ≤ (0x200 : Addr).toNat ∧ (0x200 : Addr).toNat < 0x200 + 1) ∧ 0x200 + 1 ≤ (0x201 : Addr).toNat := by
  simp only [List.length_replicate]
  decide

theorem witness_HostOperationsFollowTheBootOrder :
    (HostOp.reset.kind = .reset) ∧ ((HostOp.load [1]).kind = .load ∧ (Session.ready State.reset).phase = .ready) ∧
    (HostOp.tick.kind ≠ .load ∧ (Session.running State.reset).phase = .running) ∧
    ¬ (HostOp.tick.kind = .reset ∨ (HostOp.tick.kind = .load ∧ (Session.failed State.reset).phase = .ready) ∨
      (HostOp.tick.kind ≠ .load ∧ (Session.failed State.reset).phase = .running)) := by decide +kernel

end

end Sys2Proof.Tests
end

/-! ### Proofs: the machine state (10_state.md) -/

section

namespace Sys2Proof.Machine

variable {s t : State} {v : Int}

/-! ### The three meanings that branch: what each branch leaves (R122, R124, R221) -/

/-- 00EE with an entry to pop. -/
theorem exec_ret_of_pos (h : 0 < s.sp.val) :
    exec .ret s = .next (State.setPC { s with sp := ⟨s.sp.val - 1, by omega⟩ } (s.stack[s.sp.val - 1]'(by omega))) := by
  show execRet s = _
  rw [execRet, State.pop_of_pos h]

/-- 00EE on an empty stack. -/
theorem exec_ret_of_empty (h : s.sp.val = 0) : exec .ret s = .next (s.raise .stackUnderflow) := by
  show execRet s = _
  rw [execRet, State.pop_of_empty h]

/-- 2nnn with room on the stack. -/
theorem exec_call_of_lt (nnn : Addr) (h : s.sp.val < 16) :
    exec (.call nnn) s = .next (State.setPC
      { s with stack := s.stack.set s.sp.val s.pc h, sp := ⟨s.sp.val + 1, by omega⟩ } nnn) := by
  show execCall nnn s = _
  rw [execCall, State.push_of_lt _ h]

/-- 2nnn on a full stack. -/
theorem exec_call_of_full (nnn : Addr) (h : s.sp.val = 16) :
    exec (.call nnn) s = .next (s.raise (.stackOverflow s.pc)) := by
  show execCall nnn s = _
  rw [execCall, State.push_of_full _ h]

/-- Fx0A with no key held. -/
theorem exec_ldVxK_of_none (x : Reg) (h : s.lowestKey = none) :
    exec (.ldVxK x) s = .next (s.gotoPC s.rewindTarget) := by
  show execLdVxK x s = _
  rw [execLdVxK, h]

/-- Fx0A with a key held. -/
theorem exec_ldVxK_of_some (x : Reg) {k : Reg} (h : s.lowestKey = some k) :
    exec (.ldVxK x) s = .next (s.setV x (BitVec.ofNat 8 k.val)) := by
  show execLdVxK x s = _
  rw [execLdVxK, h]

/-- The stack is full or has room. -/
theorem State.sp_eq_full_or_lt (s : State) : s.sp.val = 16 ∨ s.sp.val < 16 := by
  have := s.sp.isLt
  omega

/-! ### The invariant: what keeps it (R45, R260)

Inv reads cfg, memory, ERR and the events alone, so the invariant of a state and of the state after a write to any other
part are the same proposition by definition. -/

/-- A byte write keeps the canonical form and touches no event. -/
theorem State.Inv.writeByte (h : s.Inv) (a : Addr) (b : Byte) : (s.writeByte a b).Inv :=
  ⟨State.writeByte_wf h.1, h.2⟩

/-- Bits already set stay set when more are set. -/
theorem or_and_eq_of_and_eq {w : Nat} {x y z : BitVec w} (h : x &&& z = z) : (x ||| y) &&& z = z := by
  rw [← h, ← BitVec.and_assoc]
  ext k
  cases hx : x[k] <;> simp [hx]

/-- ERR only grows on a raise, so what was recorded stays recorded. -/
theorem State.recorded_raise {d : Event} (e : Event) (h : s.recorded d) : (s.raise e).recorded d := by
  unfold State.recorded at *
  rw [State.raise_err, or_and_eq_of_and_eq h]

/-- A raised event is recorded. -/
theorem State.recorded_raise_self (s : State) (e : Event) : (s.raise e).recorded e := by
  unfold State.recorded
  rw [State.raise_err, BitVec.or_comm, or_and_eq_of_and_eq (BitVec.and_self)]

/-- The one step of every other lemma on events: raising a legal event keeps the invariant. -/
theorem State.Inv.raise {e : Event} (h : s.Inv) (he : e.legal) : (s.raise e).Inv := by
  obtain ⟨hmem, hev⟩ := h
  refine ⟨hmem, fun d hd => ?_⟩
  rcases List.mem_append.mp hd with hd | hd
  · exact ⟨(hev d hd).1, State.recorded_raise e (hev d hd).2⟩
  · rw [List.mem_singleton.mp hd]
    exact ⟨he, s.recorded_raise_self e⟩

/-- The values R260 says reach addr(): from PC - 2 at PC = 0 to I + V[x] at 0xFFF + 0xFF. -/
abbrev reportable (v : Int) : Prop := -2 ≤ v ∧ v ≤ 0x10FE

theorem State.indexPlus_reportable (s : State) {k : Nat} (hk : k ≤ 0xFF) : reportable (s.indexPlus k) := by
  have := s.i.isLt
  unfold State.indexPlus
  omega

theorem State.offsetTarget_reportable (s : State) (nnn : Addr) : reportable (s.offsetTarget nnn) := by
  have := (s.getV 0).isLt
  have := nnn.isLt
  unfold State.offsetTarget
  omega

theorem State.rewindTarget_reportable (s : State) : reportable s.rewindTarget := by
  have := s.pc.isLt
  unfold State.rewindTarget
  omega

/-- The end of an access through I of at most 256 bytes. -/
theorem State.indexPlus_zero_add_le (s : State) {n : Nat} (hn : n ≤ 0x100) : s.indexPlus 0 + n ≤ 0x10FF := by
  have := s.i.isLt
  unfold State.indexPlus
  omega

/-- addr() on a reportable value raises a legal event or nothing. -/
theorem State.Inv.noteAddr (h : s.Inv) (hv : reportable v) : (s.noteAddr v).Inv := by
  by_cases hr : inRange v
  · rwa [State.noteAddr_of_inRange hr]
  · rw [State.noteAddr_of_not_inRange hr]
    exact h.raise ⟨hr, hv⟩

theorem State.Inv.gotoPC (h : s.Inv) (hv : reportable v) : (s.gotoPC v).Inv := h.noteAddr hv

theorem State.Inv.gotoI (h : s.Inv) (hv : reportable v) : (s.gotoI v).Inv := h.noteAddr hv

theorem State.Inv.storeAt (h : s.Inv) (hv : reportable v) (b : Byte) : (s.storeAt v b).Inv :=
  (h.noteAddr hv).writeByte _ _

theorem State.Inv.storeBytes (bs : List Byte) : ∀ {s : State} {v : Int}, s.Inv → -2 ≤ v → v + bs.length ≤ 0x10FF →
    (s.storeBytes v bs).Inv := by
  induction bs with
  | nil => intro s v h _ _; exact h
  | cons b rest ih =>
    intro s v h hlo hhi
    rw [List.length_cons] at hhi
    exact ih (h.storeAt (by omega) b) (by omega) (by omega)

theorem State.Inv.loadRegs (rs : List Reg) : ∀ {s : State} {v : Int}, s.Inv → -2 ≤ v → v + rs.length ≤ 0x10FF →
    (s.loadRegs v rs).Inv := by
  induction rs with
  | nil => intro s v h _ _; exact h
  | cons r rest ih =>
    intro s v h hlo hhi
    rw [List.length_cons] at hhi
    exact ih (h.noteAddr (by omega)) (by omega) (by omega)

theorem State.Inv.noteKey (h : s.Inv) (b : Byte) : (s.noteKey b).Inv := by
  unfold State.noteKey
  split
  · exact h
  · exact h.raise (by simp only [Event.legal]; omega)

theorem State.Inv.skipIf (h : s.Inv) (c : Bool) : (s.skipIf c).Inv := by
  cases c with
  | false => exact h
  | true => exact h.gotoPC (by have := s.pc.isLt; omega)

/-- The column loop touches neither memory nor events. -/
theorem State.Inv.drawCols (h : s.Inv) (r : Fin 32) (x0 : Nat) (b : Byte) (cols : List Nat) :
    (s.drawCols r x0 b cols).Inv := by
  rw [State.drawCols_eq]
  exact h

/-- The row loop reads at addr(I + row) for rows inside the framebuffer alone, so row < 32 whatever the height is. -/
theorem State.Inv.drawRows (x0 y0 : Nat) (rows : List Nat) : ∀ {s : State}, s.Inv → (s.drawRows x0 y0 rows).Inv := by
  induction rows with
  | nil => intro s h; exact h
  | cons row rest ih =>
    intro s h
    rw [State.drawRows]
    split
    · exact ih ((h.noteAddr (s.indexPlus_reportable (by omega))).drawCols _ _ _ _)
    · exact h

/-! ### The invariant over instructions, the fetch and the host's operations -/

/-- Every instruction's meaning keeps the invariant. -/
theorem exec_keeps_inv (i : Instr) (h : s.Inv) : ∃ t, exec i s = .next t ∧ t.Inv := by
  cases i with
  | cls => exact ⟨_, rfl, h⟩
  | jp _ | ldI _ | ldFVx _ | ldDtVx _ | ldStVx _ => exact ⟨_, rfl, h⟩
  | ldImm _ _ | addImm _ _ | ldReg _ _ | orReg _ _ | andReg _ _ | xorReg _ _ | rnd _ _ | ldVxDt _ =>
    exact ⟨_, rfl, h⟩
  | addReg _ _ | sub _ _ | shr _ | subn _ _ | shl _ => exact ⟨_, rfl, h⟩
  | seImm _ _ | sneImm _ _ | seReg _ _ | sneReg _ _ => exact ⟨_, rfl, h.skipIf _⟩
  | skp _ | sknp _ => exact ⟨_, rfl, (h.noteKey _).skipIf _⟩
  | ret =>
    rcases Nat.eq_zero_or_pos s.sp.val with hsp | hsp
    · exact ⟨_, exec_ret_of_empty hsp, h.raise trivial⟩
    · exact ⟨_, exec_ret_of_pos hsp, h⟩
  | call nnn =>
    rcases s.sp_eq_full_or_lt with hsp | hsp
    · exact ⟨_, exec_call_of_full nnn hsp, h.raise trivial⟩
    · exact ⟨_, exec_call_of_lt nnn hsp, h⟩
  | jpV0 nnn => exact ⟨_, rfl, h.gotoPC (s.offsetTarget_reportable nnn)⟩
  | drw _ _ _ => exact ⟨_, rfl, State.Inv.drawRows _ _ _ h⟩
  | ldVxK x =>
    cases hk : s.lowestKey with
    | none => exact ⟨_, exec_ldVxK_of_none x hk, h.gotoPC s.rewindTarget_reportable⟩
    | some k => exact ⟨_, exec_ldVxK_of_some x hk, h⟩
  | addIVx x => exact ⟨_, rfl, h.gotoI (s.indexPlus_reportable (Nat.le_of_lt_succ (s.getV x).isLt))⟩
  | ldBVx x =>
    exact ⟨_, rfl, State.Inv.storeBytes _ h (s.indexPlus_reportable (by decide)).1
      (s.indexPlus_zero_add_le (by simp [bcdDigits]))⟩
  | ldMemVx x =>
    exact ⟨_, rfl, State.Inv.storeBytes _ h (s.indexPlus_reportable (by decide)).1
      (s.indexPlus_zero_add_le (by simp; omega))⟩
  | ldVxMem x =>
    exact ⟨_, rfl, State.Inv.loadRegs _ h (s.indexPlus_reportable (by decide)).1
      (s.indexPlus_zero_add_le (by simp; omega))⟩

/-- The fetch starts a new event list and reports at most PC + 1 and PC + 2. -/
theorem State.Inv.afterFetch (h : s.Inv) : s.afterFetch.Inv := by
  have hpc := s.pc.isLt
  have hstart : State.Inv { s with events := [] } := ⟨h.1, by simp⟩
  exact (hstart.noteAddr (by omega)).gotoPC (by omega)

theorem State.Inv.consumeRnd (h : s.Inv) : s.consumeRnd.Inv := h

/-- A step keeps the invariant. -/
theorem State.Inv.step (h : s.Inv) (hst : step s = .next t) : t.Inv := by
  rcases step_next hst with ⟨i, u, -, hu, rfl⟩ | ⟨w, -, rfl⟩
  · obtain ⟨u', hu', hinv⟩ := exec_keeps_inv i h.afterFetch
    obtain rfl : u' = u := Host.Outcome.next.inj (hu'.symm.trans hu)
    exact hinv.consumeRnd
  · exact h.afterFetch.consumeRnd

/-- The base case, for every parameter value. -/
theorem State.inv_resetWith (p : Config.Params) : (State.resetWith p).Inv := ⟨Memory.wf_nil, by simp [State.resetWith]⟩

theorem State.Inv.copyBytes (bs : List Byte) : ∀ {s : State} {a : Nat}, s.Inv → (s.copyBytes a bs).Inv := by
  induction bs with
  | nil => intro s a h; exact h
  | cons b rest ih => intro s a h; exact ih (h.writeByte _ b)

/-- LOAD copies its bytes or changes nothing (R292). -/
theorem State.Inv.load (h : s.Inv) (bytes : List Byte) : (s.load bytes).2.Inv := by
  unfold State.load
  split
  · exact h
  · split
    · exact h
    · exact State.Inv.copyBytes bytes h

/-- Settles O51: the fetch and every meaning raise legal events only and write memory in its canonical form. -/
theorem stepKeepsTheInvariant : Obligations.StepKeepsTheInvariant := fun _ _ h hst => h.step hst

/-- Settles O53: TICK and SET_KEYS touch nothing the invariant reads, RESET gives the reset state, LOAD writes bytes. -/
theorem hostOperationsKeepTheInvariant : Obligations.HostOperationsKeepTheInvariant :=
  fun s h => ⟨h, State.inv_resetWith s.cfg, fun _ => h, h.load⟩

/-- Settles O52: the reset state lists no byte and no event. -/
theorem resetMeetsTheInvariant : Obligations.ResetMeetsTheInvariant :=
  ⟨State.inv_resetWith Config.params, State.inv_resetWith⟩

/-! ### Frames: what each operation leaves unchanged (R22 to R34, R60) -/

/-- Where V as a whole is unchanged, so is each register. -/
theorem Unchanged.regs {e : List Part} (h : Unchanged e s t) (he : Part.regs ∉ e) (l : List Reg) : RegsUnchanged l s t :=
  fun r _ => h .regs he r

theorem State.setV_unchanged (s : State) (x : Reg) (b : Byte) : Unchanged [.regs] s (s.setV x b) := by
  intro p hp
  cases p <;> simp [Part.same] at hp ⊢

theorem State.setV_regsUnchanged (s : State) (x : Reg) (b : Byte) : RegsUnchanged [x] s (s.setV x b) := by
  intro r hr
  rw [State.getV_setV, if_neg (List.mem_singleton.not.mp hr)]

theorem State.setI_unchanged (s : State) (a : Addr) : Unchanged [.index] s (s.setI a) := by
  intro p hp
  cases p <;> simp [Part.same] at hp ⊢

theorem State.setPC_unchanged (s : State) (a : Addr) : Unchanged [.pc] s (s.setPC a) := by
  intro p hp
  cases p <;> simp [Part.same] at hp ⊢

theorem State.setDT_unchanged (s : State) (b : Byte) : Unchanged [.delay] s (s.setDT b) := by
  intro p hp
  cases p <;> simp [Part.same] at hp ⊢

theorem State.setST_unchanged (s : State) (b : Byte) : Unchanged [.sound] s (s.setST b) := by
  intro p hp
  cases p <;> simp [Part.same] at hp ⊢

theorem State.clearFB_unchanged (s : State) : Unchanged [.display] s s.clearFB := by
  intro p hp
  cases p <;> simp [Part.same] at hp ⊢

theorem State.setKeys_unchanged (s : State) (k : Vector Bool 16) : Unchanged [.keys] s (s.setKeys k) := by
  intro p hp
  cases p <;> simp [Part.same] at hp ⊢

theorem State.raise_unchanged (s : State) (e : Event) : Unchanged [.err, .events] s (s.raise e) := by
  intro p hp
  cases p <;> simp [Part.same] at hp ⊢

theorem State.noteAddr_unchanged (s : State) (v : Int) : Unchanged [.err, .events] s (s.noteAddr v) := by
  unfold State.noteAddr
  split
  · exact Unchanged.refl _ s
  · exact s.raise_unchanged _

theorem State.noteKey_unchanged (s : State) (b : Byte) : Unchanged [.err, .events] s (s.noteKey b) := by
  unfold State.noteKey
  split
  · exact Unchanged.refl _ s
  · exact s.raise_unchanged _

theorem State.gotoPC_unchanged (s : State) (v : Int) : Unchanged [.pc, .err, .events] s (s.gotoPC v) :=
  ((s.noteAddr_unchanged v).mono (by decide)).trans ((State.setPC_unchanged _ _).mono (by decide))

theorem State.gotoI_unchanged (s : State) (v : Int) : Unchanged [.index, .err, .events] s (s.gotoI v) :=
  ((s.noteAddr_unchanged v).mono (by decide)).trans ((State.setI_unchanged _ _).mono (by decide))

theorem State.skipIf_unchanged (s : State) (c : Bool) : Unchanged [.pc, .err, .events] s (s.skipIf c) := by
  cases c with
  | false => exact Unchanged.refl _ s
  | true => exact s.gotoPC_unchanged _

/-- A return and a call that succeed write SP, the stack's entries and PC. -/
theorem State.setPC_stack_unchanged (s : State) (k : Vector Addr 16) (n : Fin 17) (a : Addr) :
    Unchanged [.pc, .stack, .err, .events] s (State.setPC { s with stack := k, sp := n } a) := by
  intro p hp
  cases p <;> simp [Part.same, State.getV, State.pixel, State.readByte] at hp ⊢

theorem State.storeBytes_unchanged (s : State) (v : Int) (bs : List Byte) :
    Unchanged [.memory, .err, .events] s (s.storeBytes v bs) := by
  rw [State.storeBytes_eq]
  intro p hp
  cases p <;> simp [Part.same, State.getV, State.pixel] at hp ⊢

theorem State.loadRegs_unchanged (s : State) (v : Int) (rs : List Reg) :
    Unchanged [.regs, .err, .events] s (s.loadRegs v rs) := by
  rw [State.loadRegs_eq]
  intro p hp
  cases p <;> simp [Part.same, State.pixel, State.readByte] at hp ⊢

theorem State.drawRows_unchanged (s : State) (x0 y0 : Nat) (rows : List Nat) :
    Unchanged [.regs, .display, .err, .events] s (s.drawRows x0 y0 rows) := by
  rw [State.drawRows_eq]
  intro p hp
  cases p <;> simp [Part.same, State.readByte] at hp ⊢

/-- 8xy4 to 8xyE write VF and V[x] (R166 to R170). -/
theorem State.flagThenResult_unchanged (s : State) (x : Reg) (flag : Byte) (result : State → Byte) :
    Unchanged [.regs] s (s.flagThenResult x flag result) :=
  (s.setV_unchanged vF flag).trans (State.setV_unchanged _ x _)

theorem State.flagThenResult_regsUnchanged (s : State) (x : Reg) (flag : Byte) (result : State → Byte) :
    RegsUnchanged [vF, x] s (s.flagThenResult x flag result) := by
  intro r hr
  obtain ⟨hf, hx⟩ := not_or.mp (List.mem_pair.not.mp hr)
  rw [State.flagThenResult, State.getV_setV, if_neg hx, State.getV_setV, if_neg hf]

/-- Dxyn writes VF, pixels and reports (R242). -/
theorem State.setV_drawRows_unchanged (s : State) (x0 y0 : Nat) (rows : List Nat) :
    Unchanged [.regs, .display, .err, .events] s ((s.setV vF 0).drawRows x0 y0 rows) :=
  ((s.setV_unchanged vF 0).mono (by decide)).trans (State.drawRows_unchanged _ _ _ _)

theorem State.setV_drawRows_regsUnchanged (s : State) (x0 y0 : Nat) (rows : List Nat) :
    RegsUnchanged [vF] s ((s.setV vF 0).drawRows x0 y0 rows) := by
  intro r hr
  rw [State.getV_drawRows_of_ne _ _ _ (List.mem_singleton.not.mp hr)]
  exact s.setV_regsUnchanged vF 0 r hr

/-- Fx65 writes V0..Vx only (R205). -/
theorem State.loadRegs_regsUnchanged (s : State) (v : Int) (x : Reg) :
    RegsUnchanged ((List.finRange 16).filter (fun r => r ≤ x)) s (s.loadRegs v (regsUpTo x)) := by
  intro r hr
  exact State.getV_loadRegs_of_not_mem _ s v r (by simpa using hr)

/-! ### Frames of the instructions -/

/-- For an instruction that writes no register, the frame of the parts is the whole frame. -/
theorem exec_frame_of_parts {i : Instr} (ht : exec i s = .next t) (hp : Unchanged (writeParts i) s t)
    (hr : Part.regs ∉ writeParts i := by simp [writeParts]) :
    ∃ t, exec i s = .next t ∧ Unchanged (writeParts i) s t ∧ RegsUnchanged (writeRegs i) s t :=
  ⟨t, ht, hp, hp.regs hr _⟩

/-- Every meaning answers a next state and leaves all parts and registers outside its table entries unchanged. -/
theorem exec_frame (i : Instr) (s : State) :
    ∃ t, exec i s = .next t ∧ Unchanged (writeParts i) s t ∧ RegsUnchanged (writeRegs i) s t := by
  cases i with
  | cls => exact exec_frame_of_parts rfl s.clearFB_unchanged
  | ret =>
    rcases Nat.eq_zero_or_pos s.sp.val with hsp | hsp
    · exact exec_frame_of_parts (exec_ret_of_empty hsp) ((s.raise_unchanged _).mono (by simp [writeParts]))
    · exact exec_frame_of_parts (exec_ret_of_pos hsp) (s.setPC_stack_unchanged s.stack _ _)
  | jp nnn => exact exec_frame_of_parts rfl (s.setPC_unchanged nnn)
  | call nnn =>
    rcases s.sp_eq_full_or_lt with hsp | hsp
    · exact exec_frame_of_parts (exec_call_of_full nnn hsp) ((s.raise_unchanged _).mono (by simp [writeParts]))
    · exact exec_frame_of_parts (exec_call_of_lt nnn hsp) (s.setPC_stack_unchanged _ _ nnn)
  | seImm _ _ | sneImm _ _ | seReg _ _ | sneReg _ _ => exact exec_frame_of_parts rfl (s.skipIf_unchanged _)
  | skp _ | sknp _ =>
    exact exec_frame_of_parts rfl
      (((s.noteKey_unchanged _).mono (by simp [writeParts])).trans (State.skipIf_unchanged _ _))
  | ldImm x _ | addImm x _ | ldReg x _ | orReg x _ | andReg x _ | xorReg x _ | rnd x _ | ldVxDt x =>
    exact ⟨_, rfl, s.setV_unchanged x _, s.setV_regsUnchanged x _⟩
  | addReg x _ | sub x _ | shr x | subn x _ | shl x =>
    exact ⟨_, rfl, s.flagThenResult_unchanged x _ _, s.flagThenResult_regsUnchanged x _ _⟩
  | ldI _ | ldFVx _ => exact exec_frame_of_parts rfl (s.setI_unchanged _)
  | jpV0 _ => exact exec_frame_of_parts rfl (s.gotoPC_unchanged _)
  | drw _ _ _ => exact ⟨_, rfl, s.setV_drawRows_unchanged _ _ _, s.setV_drawRows_regsUnchanged _ _ _⟩
  | ldVxK x =>
    cases hk : s.lowestKey with
    | none =>
      exact ⟨_, exec_ldVxK_of_none x hk, (s.gotoPC_unchanged _).mono (by simp [writeParts]),
        (s.gotoPC_unchanged _).regs (by decide) _⟩
    | some k =>
      exact ⟨_, exec_ldVxK_of_some x hk, (s.setV_unchanged x _).mono (by simp [writeParts]), s.setV_regsUnchanged x _⟩
  | ldDtVx _ => exact exec_frame_of_parts rfl (s.setDT_unchanged _)
  | ldStVx _ => exact exec_frame_of_parts rfl (s.setST_unchanged _)
  | addIVx _ => exact exec_frame_of_parts rfl (s.gotoI_unchanged _)
  | ldBVx _ | ldMemVx _ => exact exec_frame_of_parts rfl (s.storeBytes_unchanged _ _)
  | ldVxMem x => exact ⟨_, rfl, s.loadRegs_unchanged _ _, s.loadRegs_regsUnchanged _ x⟩

/-- Settles O16: one frame lemma per operation, and each meaning is built from the operations its table entry names. -/
theorem everyInstructionKeepsItsFrame : Obligations.EveryInstructionKeepsItsFrame := exec_frame

/-! ### PC after each instruction (R26) -/

/-- An instruction that is not tabled to write PC leaves the advanced PC. -/
theorem exec_pc_of_not_written {i : Instr} (h : Part.pc ∉ writeParts i) (s : State) :
    ∃ t, exec i s = .next t ∧ t.pc = s.pc := by
  obtain ⟨t, ht, hp, -⟩ := exec_frame i s
  exact ⟨t, ht, hp .pc h⟩

/-- A conditional skip goes to addr(PC + 2) or stays (R147). -/
theorem State.skipIf_pc (s : State) (c : Bool) :
    (s.skipIf c).pc = if c = true then s.norm ((s.pc.toNat : Int) + 2) else s.pc := by
  cases c with
  | false => rfl
  | true => rw [State.skipIf_true, State.skip, State.gotoPC_pc, if_pos rfl]

/-- keyPressed's report leaves the PC a skip starts from (R146, R147). -/
theorem State.noteKey_skipIf_pc (s : State) (b : Byte) (c : Bool) :
    ((s.noteKey b).skipIf c).pc = if c = true then s.norm ((s.pc.toNat : Int) + 2) else s.pc := by
  simp [State.skipIf_pc]

/-- Every instruction leaves PC as tabled: the branches of R26 for those that write PC, their frame for the rest. -/
theorem exec_pc (i : Instr) (s : State) : ∃ t, exec i s = .next t ∧ t.pc = finalPC i s := by
  cases i with
  | jp _ | jpV0 _ => exact ⟨_, rfl, rfl⟩
  | ret =>
    rcases Nat.eq_zero_or_pos s.sp.val with hsp | hsp
    · exact ⟨_, exec_ret_of_empty hsp, by simp [finalPC, hsp]⟩
    · exact ⟨_, exec_ret_of_pos hsp, by simp [finalPC, hsp]⟩
  | call nnn =>
    rcases s.sp_eq_full_or_lt with hsp | hsp
    · exact ⟨_, exec_call_of_full nnn hsp, by simp [finalPC, hsp]⟩
    · exact ⟨_, exec_call_of_lt nnn hsp, by simp [finalPC, hsp]⟩
  | seImm _ _ | sneImm _ _ | seReg _ _ | sneReg _ _ => exact ⟨_, rfl, by simp [State.skipIf_pc, finalPC]⟩
  | skp x | sknp x =>
    exact ⟨_, rfl, (s.noteKey_skipIf_pc _ _).trans (by cases hk : s.keyDown (s.getV x) <;> simp [finalPC, hk])⟩
  | ldVxK x =>
    cases hk : s.lowestKey with
    | none => exact ⟨_, exec_ldVxK_of_none x hk, (if_pos (State.lowestKey_eq_none.mp hk)).symm⟩
    | some k =>
      have hheld : ¬ ∀ k : Fin 16, s.key[k] = false := by rw [← State.lowestKey_eq_none, hk]; simp
      exact ⟨_, exec_ldVxK_of_some x hk, (if_neg hheld).symm⟩
  | cls | ldImm _ _ | addImm _ _ | ldReg _ _ | orReg _ _ | andReg _ _ | xorReg _ _ | addReg _ _ | sub _ _ | shr _
  | subn _ _ | shl _ | ldI _ | rnd _ _ | drw _ _ _ | ldVxDt _ | ldDtVx _ | ldStVx _ | addIVx _ | ldFVx _ | ldBVx _
  | ldMemVx _ | ldVxMem _ => exact exec_pc_of_not_written (by simp [writeParts]) s

/-- Settles O17: what writes PC is followed branch by branch, the rest keeps it by its frame. -/
theorem everyInstructionLeavesPCAsTabled : Obligations.EveryInstructionLeavesPCAsTabled := exec_pc

/-! ### RESET and the running operations -/

/-- After RESET every byte is at its reset contents (R43, R66). -/
theorem State.resetOp_readByte (s : State) (a : Addr) : s.resetOp.readByte a = unlisted s.cfg.font a.toNat := rfl

/-- RESET keeps the model's own fields (log 29). -/
theorem State.resetOp_unchanged (s : State) :
    Unchanged [.regs, .index, .pc, .stack, .delay, .sound, .display, .keys, .err, .events, .memory] s s.resetOp := by
  intro p hp
  cases p <;> simp [Part.same] at hp ⊢

/-- Settles O57: memory reads as unlisted everywhere, and every other element is a constant. -/
theorem resetGivesTheResetState : Obligations.ResetGivesTheResetState := by
  intro s
  refine ⟨fun a h => ?_, fun a h => ?_, fun r => ?_, rfl, rfl, rfl, fun d => ?_, rfl, rfl, fun r c => ?_, fun k => ?_,
    rfl, rfl, s.resetOp_unchanged⟩
  · rw [State.resetOp_readByte, unlisted, dif_pos h]
  · rw [State.resetOp_readByte, unlisted, dif_neg h]
  · simp [State.getV]
  · simp
  · simp [State.pixel]
  · simp

/-- Every step answers a next state (R107): every meaning does. -/
theorem step_answers_next (s : State) : ∃ t, step s = .next t := by
  cases hd : decode s.fetchWord with
  | instr i =>
    obtain ⟨t, ht, -⟩ := exec_frame i s.afterFetch
    exact ⟨t.consumeRnd, by rw [step_of_instr hd, ht, onNext_next]⟩
  | nop w => exact ⟨_, step_of_nop hd⟩

/-- STEP's reply is the event list of the state it leaves (R41, R100). -/
theorem Session.perform_step_running {rnd : Byte} (h : stepWith rnd s = .next t) :
    (Session.running s).perform (.step rnd) = .next (.raised t.hostView.events, .running t) := by
  show Session.performStep rnd (.running s) = _
  rw [Session.performStep, h]
  rfl

/-- Settles O60: SET_KEYS and TICK reply by definition, STEP because every step answers a next state. -/
theorem runningOperationsReplyAsTheInterfaceSays : Obligations.RunningOperationsReplyAsTheInterfaceSays := by
  intro s
  refine ⟨fun k => ⟨s.setKeys k, rfl, fun _ => rfl, s.setKeys_unchanged k⟩, rfl, fun rnd => ?_⟩
  obtain ⟨t, ht⟩ := step_answers_next { s with rndIn := rnd :: s.rndIn }
  exact ⟨t, ht, Session.perform_step_running ht⟩

end Sys2Proof.Machine
end

/-! ### Proofs: memory (20_memory.md) -/

section

namespace Sys2Proof.Machine

variable {s t : State} {v : Int} {p : Config.AddrPolicy}

/-! ### A state under another address policy (R61, D2)

The policy is read by addr() alone, and by addr() out of range alone, where it also reports. So an operation commutes with
a change of policy as soon as its result lists no AddrOutOfRange, and its result lists none only if its start lists none. -/

/-- The same state under policy p. -/
def State.withPolicy (s : State) (p : Config.AddrPolicy) : State := { s with cfg := { s.cfg with addrPolicy := p } }

theorem State.withPolicy_pc : (s.withPolicy p).pc = s.pc := rfl
theorem State.withPolicy_pixel (r : Fin 32) (c : Fin 64) : (s.withPolicy p).pixel r c = s.pixel r c := rfl
theorem State.consumeRnd_withPolicy : (s.withPolicy p).consumeRnd = s.consumeRnd.withPolicy p := rfl

/-- No AddrOutOfRange is listed. -/
abbrev State.noAddrEvent (s : State) : Prop := hasAddrEvent s.events = false

theorem State.raise_noAddrEvent {e : Event} (h : e.kind ≠ .addrOutOfRange) : (s.raise e).noAddrEvent ↔ s.noAddrEvent := by
  simp [hasAddrEvent, h]

theorem State.consumeRnd_noAddrEvent : s.consumeRnd.noAddrEvent ↔ s.noAddrEvent := Iff.rfl

/-- addr() lists no AddrOutOfRange exactly when its value is in range. -/
theorem State.noteAddr_noAddrEvent : (s.noteAddr v).noAddrEvent ↔ s.noAddrEvent ∧ inRange v := by
  by_cases hr : inRange v
  · rw [State.noteAddr_of_inRange hr, and_iff_left hr]
  · rw [State.noteAddr_of_not_inRange hr]
    simp [hasAddrEvent, hr, Event.kind]

theorem State.gotoPC_noAddrEvent : (s.gotoPC v).noAddrEvent ↔ s.noAddrEvent ∧ inRange v := State.noteAddr_noAddrEvent

theorem State.noteKey_noAddrEvent (b : Byte) : (s.noteKey b).noAddrEvent ↔ s.noAddrEvent := by
  unfold State.noteKey
  split
  · rfl
  · exact State.raise_noAddrEvent (by simp [Event.kind])

/-- In range, addr() answers the same under both policies. -/
theorem State.norm_withPolicy (h : inRange v) : (s.withPolicy p).norm v = s.norm v :=
  (normalise_of_inRange h).trans (normalise_of_inRange h).symm

/-- addr() reports under both policies. -/
theorem State.noteAddr_withPolicy (v : Int) : (s.withPolicy p).noteAddr v = (s.noteAddr v).withPolicy p := by
  unfold State.noteAddr
  split <;> rfl

theorem State.noteKey_withPolicy (b : Byte) : (s.withPolicy p).noteKey b = (s.noteKey b).withPolicy p := by
  unfold State.noteKey
  split <;> rfl

/-! ### Operations from one state under two policies -/

/-- From s an operation leads to t, and under policy p to t': if t lists no AddrOutOfRange then neither does s, and t' is t
under policy p. -/
def SameWhenQuiet (p : Config.AddrPolicy) (s t t' : State) : Prop := t.noAddrEvent → s.noAddrEvent ∧ t' = t.withPolicy p

/-- An operation that raises nothing and does not read the policy. -/
theorem sameWhenQuiet_of_events (h : t.events = s.events) : SameWhenQuiet p s t (t.withPolicy p) :=
  fun ht => ⟨by rwa [State.noAddrEvent, ← h], rfl⟩

/-- An operation, then g. -/
theorem SameWhenQuiet.trans {t' u : State} (g : State → State) (h : SameWhenQuiet p s t t')
    (hg : SameWhenQuiet p t u (g (t.withPolicy p))) : SameWhenQuiet p s u (g t') := by
  intro hu
  obtain ⟨ht, eu⟩ := hg hu
  obtain ⟨hs, rfl⟩ := h ht
  exact ⟨hs, eu⟩

/-- addr(), then an operation on its answer; every use of addr() by an instruction has this form. -/
theorem State.noteAddr_sameWhenQuiet (f : Addr → State → State) (v : Int)
    (hf : ∀ a t, SameWhenQuiet p t (f a t) (f a (t.withPolicy p))) :
    SameWhenQuiet p s (f (s.norm v) (s.noteAddr v)) (f ((s.withPolicy p).norm v) ((s.withPolicy p).noteAddr v)) := by
  intro h
  obtain ⟨hn, e⟩ := hf _ _ h
  obtain ⟨hs, hv⟩ := State.noteAddr_noAddrEvent.mp hn
  exact ⟨hs, by rw [State.norm_withPolicy hv, State.noteAddr_withPolicy, e]⟩

theorem State.gotoPC_sameWhenQuiet (v : Int) : SameWhenQuiet p s (s.gotoPC v) ((s.withPolicy p).gotoPC v) :=
  State.noteAddr_sameWhenQuiet (fun a t => t.setPC a) v fun _ _ => sameWhenQuiet_of_events rfl

theorem State.gotoI_sameWhenQuiet (v : Int) : SameWhenQuiet p s (s.gotoI v) ((s.withPolicy p).gotoI v) :=
  State.noteAddr_sameWhenQuiet (fun a t => t.setI a) v fun _ _ => sameWhenQuiet_of_events rfl

theorem State.storeAt_sameWhenQuiet (v : Int) (b : Byte) : SameWhenQuiet p s (s.storeAt v b) ((s.withPolicy p).storeAt v b) :=
  State.noteAddr_sameWhenQuiet (fun a t => t.writeByte a b) v fun _ _ => sameWhenQuiet_of_events rfl

theorem State.skipIf_sameWhenQuiet (c : Bool) : SameWhenQuiet p s (s.skipIf c) ((s.withPolicy p).skipIf c) := by
  cases c with
  | false => exact sameWhenQuiet_of_events rfl
  | true => exact State.gotoPC_sameWhenQuiet _

/-- A raise of another kind of event. -/
theorem State.raise_sameWhenQuiet {e : Event} (h : e.kind ≠ .addrOutOfRange) :
    SameWhenQuiet p s (s.raise e) ((s.raise e).withPolicy p) :=
  fun ht => ⟨(State.raise_noAddrEvent h).mp ht, rfl⟩

theorem State.noteKey_sameWhenQuiet (b : Byte) : SameWhenQuiet p s (s.noteKey b) ((s.withPolicy p).noteKey b) :=
  fun ht => ⟨(State.noteKey_noAddrEvent b).mp ht, State.noteKey_withPolicy b⟩

/-! ### The loops -/

theorem State.storeBytes_sameWhenQuiet (bs : List Byte) : ∀ (s : State) (v : Int),
    SameWhenQuiet p s (s.storeBytes v bs) ((s.withPolicy p).storeBytes v bs) := by
  induction bs with
  | nil => intro s v; exact sameWhenQuiet_of_events rfl
  | cons b rest ih =>
    intro s v
    exact (s.storeAt_sameWhenQuiet v b).trans (fun t => t.storeBytes (v + 1) rest) (ih _ _)

/-- A load reads memory, which no load changes, so what it loads depends on its address alone. -/
theorem State.loadRegs_sameWhenQuiet (rs : List Reg) : ∀ (s : State) (v : Int),
    SameWhenQuiet p s (s.loadRegs v rs) ((s.withPolicy p).loadRegs v rs) := by
  induction rs with
  | nil => intro s v; exact sameWhenQuiet_of_events rfl
  | cons r rest ih =>
    intro s v
    exact (State.noteAddr_sameWhenQuiet (fun a t => t.setV r (s.readByte a)) v fun _ _ => sameWhenQuiet_of_events rfl).trans
      (fun t => t.loadRegs (v + 1) rest) (ih _ _)

theorem State.plot_withPolicy (r : Fin 32) (c : Fin 64) : (s.withPolicy p).plot r c = (s.plot r c).withPolicy p := by
  rw [State.plot, State.plot, State.withPolicy_pixel]
  split <;> rfl

/-- The column loop does not address memory. -/
theorem State.drawCols_withPolicy (r : Fin 32) (x0 : Nat) (b : Byte) (cols : List Nat) : ∀ s : State,
    (s.withPolicy p).drawCols r x0 b cols = (s.drawCols r x0 b cols).withPolicy p := by
  induction cols with
  | nil => intro s; rfl
  | cons col rest ih =>
    intro s
    rw [State.drawCols, State.drawCols]
    split
    · split
      · rw [State.plot_withPolicy, ih]
      · exact ih s
    · rfl

theorem State.drawCols_sameWhenQuiet (r : Fin 32) (x0 : Nat) (b : Byte) (cols : List Nat) :
    SameWhenQuiet p s (s.drawCols r x0 b cols) ((s.withPolicy p).drawCols r x0 b cols) := by
  rw [State.drawCols_withPolicy]
  exact sameWhenQuiet_of_events (by rw [State.drawCols_eq])

theorem State.drawRows_sameWhenQuiet (x0 y0 : Nat) (rows : List Nat) : ∀ s : State,
    SameWhenQuiet p s (s.drawRows x0 y0 rows) ((s.withPolicy p).drawRows x0 y0 rows) := by
  induction rows with
  | nil => intro s; exact sameWhenQuiet_of_events rfl
  | cons row rest ih =>
    intro s
    rw [State.drawRows, State.drawRows]
    split
    · rename_i h
      exact (State.noteAddr_sameWhenQuiet
        (fun a t => t.drawCols ⟨y0 + row, h⟩ x0 (s.readByte a) (List.range 8)) (s.indexPlus row)
        fun _ t => t.drawCols_sameWhenQuiet _ _ _ _).trans (fun t => t.drawRows x0 y0 rest) (ih _)
    · exact sameWhenQuiet_of_events rfl

/-! ### Instructions, the fetch and the step -/

/-- Every instruction's meaning. -/
theorem exec_sameWhenQuiet (i : Instr) (s : State) (p : Config.AddrPolicy) :
    ∃ t t', exec i s = .next t ∧ exec i (s.withPolicy p) = .next t' ∧ SameWhenQuiet p s t t' := by
  cases i with
  | cls | jp _ | ldI _ | ldFVx _ | ldDtVx _ | ldStVx _ => exact ⟨_, _, rfl, rfl, sameWhenQuiet_of_events rfl⟩
  | ldImm _ _ | addImm _ _ | ldReg _ _ | orReg _ _ | andReg _ _ | xorReg _ _ | rnd _ _ | ldVxDt _ =>
    exact ⟨_, _, rfl, rfl, sameWhenQuiet_of_events rfl⟩
  | addReg _ _ | sub _ _ | shr _ | subn _ _ | shl _ => exact ⟨_, _, rfl, rfl, sameWhenQuiet_of_events rfl⟩
  | seImm _ _ | sneImm _ _ | seReg _ _ | sneReg _ _ => exact ⟨_, _, rfl, rfl, s.skipIf_sameWhenQuiet _⟩
  | skp x | sknp x =>
    exact ⟨_, _, rfl, rfl, (s.noteKey_sameWhenQuiet (s.getV x)).trans (fun t => t.skipIf _) (State.skipIf_sameWhenQuiet _)⟩
  | ret =>
    rcases Nat.eq_zero_or_pos s.sp.val with hsp | hsp
    · exact ⟨_, _, exec_ret_of_empty hsp, exec_ret_of_empty hsp, State.raise_sameWhenQuiet (by simp [Event.kind])⟩
    · exact ⟨_, _, exec_ret_of_pos hsp, exec_ret_of_pos (s := s.withPolicy p) hsp, sameWhenQuiet_of_events rfl⟩
  | call nnn =>
    rcases s.sp_eq_full_or_lt with hsp | hsp
    · exact ⟨_, _, exec_call_of_full nnn hsp, exec_call_of_full nnn hsp, State.raise_sameWhenQuiet (by simp [Event.kind])⟩
    · exact ⟨_, _, exec_call_of_lt nnn hsp, exec_call_of_lt (s := s.withPolicy p) nnn hsp, sameWhenQuiet_of_events rfl⟩
  | jpV0 _ => exact ⟨_, _, rfl, rfl, s.gotoPC_sameWhenQuiet _⟩
  | drw x y n => exact ⟨_, _, rfl, rfl, State.drawRows_sameWhenQuiet _ _ _ (s.setV vF 0)⟩
  | ldVxK x =>
    cases hk : s.lowestKey with
    | none => exact ⟨_, _, exec_ldVxK_of_none x hk, exec_ldVxK_of_none x hk, s.gotoPC_sameWhenQuiet _⟩
    | some k => exact ⟨_, _, exec_ldVxK_of_some x hk, exec_ldVxK_of_some x hk, sameWhenQuiet_of_events rfl⟩
  | addIVx _ => exact ⟨_, _, rfl, rfl, s.gotoI_sameWhenQuiet _⟩
  | ldBVx _ | ldMemVx _ => exact ⟨_, _, rfl, rfl, State.storeBytes_sameWhenQuiet _ s _⟩
  | ldVxMem _ => exact ⟨_, _, rfl, rfl, State.loadRegs_sameWhenQuiet _ s _⟩

theorem State.afterFetch_sameWhenQuiet (s : State) (p : Config.AddrPolicy) :
    SameWhenQuiet p { s with events := [] } s.afterFetch (s.withPolicy p).afterFetch :=
  (State.noteAddr_sameWhenQuiet (fun _ t => t) _ fun _ _ => sameWhenQuiet_of_events rfl).trans
    (fun t => t.gotoPC ((s.pc.toNat : Int) + 2)) (State.gotoPC_sameWhenQuiet _)

/-- A fetch that reports nothing reads the same word under both policies: the second byte's address is in range. -/
theorem State.fetchWord_withPolicy (h : s.afterFetch.noAddrEvent) : (s.withPolicy p).fetchWord = s.fetchWord := by
  obtain ⟨hnote, -⟩ := State.gotoPC_noAddrEvent.mp h
  obtain ⟨-, hsecond⟩ := State.noteAddr_noAddrEvent.mp hnote
  rw [State.fetchWord, State.withPolicy_pc, State.norm_withPolicy hsecond]
  rfl

/-- A step that reports no AddrOutOfRange: the fetch reported none, so both policies run the same word from the same state. -/
theorem step_withPolicy (s : State) (p : Config.AddrPolicy) :
    ∃ t, step s = .next t ∧ (t.noAddrEvent → step (s.withPolicy p) = .next (t.withPolicy p)) := by
  cases hd : decode s.fetchWord with
  | instr i =>
    obtain ⟨t, t', ht, ht', hexec⟩ := exec_sameWhenQuiet i s.afterFetch p
    refine ⟨t.consumeRnd, by rw [step_of_instr hd, ht, onNext_next], fun hq => ?_⟩
    obtain ⟨hfetch, rfl⟩ := hexec hq
    obtain ⟨-, haf⟩ := s.afterFetch_sameWhenQuiet p hfetch
    rw [step_of_instr (by rw [State.fetchWord_withPolicy hfetch, hd]), haf, ht']
    rfl
  | nop w =>
    refine ⟨_, step_of_nop hd, fun hq => ?_⟩
    have hfetch := State.consumeRnd_noAddrEvent.mp hq
    obtain ⟨-, haf⟩ := s.afterFetch_sameWhenQuiet p hfetch
    rw [step_of_nop (by rw [State.fetchWord_withPolicy hfetch, hd]), haf, State.consumeRnd_withPolicy]

/-- Settles O54: addr() reports wherever its answer depends on the policy, in the fetch and in every meaning. -/
theorem quietStepsDoNotDependOnThePolicy : Obligations.QuietStepsDoNotDependOnThePolicy := step_withPolicy

/-! ### Stores and the next fetch (R63, R71, R101, R204) -/

theorem State.norm_toNat (s : State) (h : inRange v) : (s.norm v).toNat = v.toNat := normalise_toNat_of_inRange h

/-- An address is the answer of addr() on its own value. -/
theorem State.norm_addr (s : State) (a : Addr) : s.norm a.toNat = a := by
  have ha := a.isLt
  apply BitVec.eq_of_toNat_eq
  rw [s.norm_toNat (by omega), Int.toNat_natCast]

/-- A store that stays inside memory folds no two of its addresses together, so each byte can be read back. -/
theorem State.readByte_storeBytes (s : State) (bs : List Byte) {k : Nat} (hk : k < bs.length) (hlo : 0 ≤ v)
    (hhi : v + bs.length ≤ 0x1000) : (s.storeBytes v bs).readByte (s.norm (v + k)) = bs[k] := by
  refine (State.storeBytes_stores bs s v).2 k hk fun j hkj hj he => ?_
  have hval := congrArg BitVec.toNat he
  rw [s.norm_toNat (by omega), s.norm_toNat (by omega)] at hval
  omega

theorem State.storeBytes_norm (s : State) (bs : List Byte) (w : Int) : (s.storeBytes v bs).norm w = s.norm w := by
  rw [State.storeBytes_eq]
  rfl

/-- After a store at PC the first two bytes are the word fetched next. -/
theorem State.fetchWord_storeBytes (s : State) (bs : List Byte) (h2 : 1 < bs.length)
    (hhi : (s.pc.toNat : Int) + bs.length ≤ 0x1000) :
    (s.storeBytes s.pc.toNat bs).fetchWord = wordOfBytes bs[0] bs[1] := by
  have hpc : (s.storeBytes s.pc.toNat bs).pc = s.pc := s.storeBytes_unchanged _ bs .pc (by decide)
  have h0 := s.readByte_storeBytes bs (k := 0) (by omega) (by omega) hhi
  have h1 := s.readByte_storeBytes bs (k := 1) h2 (by omega) hhi
  rw [Nat.cast_zero, add_zero, s.norm_addr] at h0
  rw [State.fetchWord, hpc, State.storeBytes_norm, h0]
  exact congrArg _ h1

/-- Big-endian (R63). -/
theorem wordOfBytes_toNat (hi lo : Byte) : (wordOfBytes hi lo).toNat = hi.toNat * 256 + lo.toNat := by
  rw [wordOfBytes, BitVec.toNat_append, ← Nat.shiftLeft_add_eq_or_of_lt lo.isLt, Nat.shiftLeft_eq]

/-- The k-th byte Fx55 stores. -/
theorem getElem_map_regsUpTo (s : State) (x k : Reg) (h : k.val < ((regsUpTo x).map s.getV).length) :
    ((regsUpTo x).map s.getV)[k.val] = s.getV k := by
  rw [List.getElem_map]
  exact congrArg s.getV (Fin.ext (regsUpTo_getElem x k.val (by simpa using h)))

/-- Settles O42: the store starts at PC, so its first two bytes V[0] and V[1] are the word. -/
theorem storedWordIsFetchedNext : Obligations.StoredWordIsFetchedNext := by
  intro x s hx hi hend
  have hlen : ((regsUpTo x).map s.getV).length = x.val + 1 := by simp
  have hstart : s.indexPlus 0 = s.pc.toNat := by simp [State.indexPlus, hi]
  have h0 : ((regsUpTo x).map s.getV)[0] = s.getV 0 := getElem_map_regsUpTo s x 0 _
  have h1 : ((regsUpTo x).map s.getV)[1] = s.getV 1 := getElem_map_regsUpTo s x 1 _
  refine ⟨_, rfl, ?_⟩
  rw [hstart, s.fetchWord_storeBytes _ (by omega) (by omega), wordOfBytes_toNat, h0, h1]

/-! ### The canonical form determines the data (R60; log 26) -/

variable {font : Vector Byte 80} {m k : Memory} {c d : Host.Cell}

@[simp] theorem Memory.read_cons_self : Memory.read font (c :: m) c.1 = c.2 := if_pos rfl

/-- No entry of a canonical memory repeats the unlisted contents. -/
theorem Memory.read_head_ne_unlisted (hm : Memory.wf font (c :: m) = true) :
    Memory.read font (c :: m) c.1 ≠ unlisted font c.1 := by
  obtain ⟨-, hlisted, -, -⟩ := Memory.wf_cons.mp hm
  rwa [Memory.read_cons_self]

/-- A canonical memory that reads alike at another's first address starts there or below: before its first entry it reads as
unlisted. -/
theorem Memory.head_le_head (hm : Memory.wf font (c :: m) = true) (hk : Memory.wf font (d :: k) = true)
    (h : Memory.read font (c :: m) c.1 = Memory.read font (d :: k) c.1) : d.1 ≤ c.1 := by
  obtain ⟨-, -, hrise, -⟩ := Memory.wf_cons.mp hk
  by_contra! hlt
  refine Memory.read_head_ne_unlisted hm (h.trans (Memory.read_of_lt fun e he => ?_))
  rcases List.mem_cons.mp he with rfl | he
  · exact hlt
  · exact hlt.trans (hrise e he)

/-- Canonical memories that read alike are equal: neither starts below the other, and without the common first entry they
read alike again. -/
theorem Memory.eq_of_read_eq : ∀ {m k : Memory}, Memory.wf font m = true → Memory.wf font k = true →
    (∀ a : Nat, a < 4096 → Memory.read font m a = Memory.read font k a) → m = k
  | [], [], _, _, _ => rfl
  | [], d :: _, _, hk, h => by
    obtain ⟨hd, -⟩ := Memory.wf_cons.mp hk
    exact absurd (h d.1 hd).symm (Memory.read_head_ne_unlisted hk)
  | c :: _, [], hm, _, h => by
    obtain ⟨hc, -⟩ := Memory.wf_cons.mp hm
    exact absurd (h c.1 hc) (Memory.read_head_ne_unlisted hm)
  | c :: m, d :: k, hm, hk, h => by
    obtain ⟨hc, -, hrisem, hwfm⟩ := Memory.wf_cons.mp hm
    obtain ⟨hd, -, hrisek, hwfk⟩ := Memory.wf_cons.mp hk
    have haddr : c.1 = d.1 :=
      le_antisymm (Memory.head_le_head hk hm (h d.1 hd).symm) (Memory.head_le_head hm hk (h c.1 hc))
    have hbyte := h c.1 hc
    rw [Memory.read_cons_self, haddr, Memory.read_cons_self] at hbyte
    obtain rfl : c = d := Prod.ext haddr hbyte
    rw [Memory.eq_of_read_eq hwfm hwfk fun a ha => ?_]
    by_cases hca : c.1 = a
    · subst hca
      rw [Memory.read_of_lt hrisem, Memory.read_of_lt hrisek]
    · simpa [Memory.read, hca] using h a ha

/-- Settles O55, by induction on both memories. -/
theorem canonicalMemoriesThatReadAlikeAreEqual : Obligations.CanonicalMemoriesThatReadAlikeAreEqual :=
  fun _ _ _ => Memory.eq_of_read_eq

end Sys2Proof.Machine
end

/-! ### Proofs: encoding (30_encoding.md) -/

section

namespace Sys2Proof

variable {w : Word} {i : Instr}

/-! ### The fields of the words the encoder builds (R81) -/

@[simp] theorem fieldOp_encodeNNN (op : BitVec 4) (nnn : Addr) : fieldOp (encodeNNN op nnn) = op := by
  apply BitVec.eq_of_toNat_eq
  rw [fieldOp_toNat, encodeNNN_toNat]
  omega

@[simp] theorem fieldNNN_encodeNNN (op : BitVec 4) (nnn : Addr) : fieldNNN (encodeNNN op nnn) = nnn := by
  apply BitVec.eq_of_toNat_eq
  rw [fieldNNN_toNat, encodeNNN_toNat]
  omega

@[simp] theorem fieldOp_encodeXNN (op : BitVec 4) (x : Reg) (nn : Byte) : fieldOp (encodeXNN op x nn) = op := by
  apply BitVec.eq_of_toNat_eq
  rw [fieldOp_toNat, encodeXNN_toNat]
  omega

@[simp] theorem fieldX_encodeXNN (op : BitVec 4) (x : Reg) (nn : Byte) : fieldX (encodeXNN op x nn) = x := by
  apply Fin.ext
  rw [fieldX_val, encodeXNN_toNat]
  omega

@[simp] theorem fieldNN_encodeXNN (op : BitVec 4) (x : Reg) (nn : Byte) : fieldNN (encodeXNN op x nn) = nn := by
  apply BitVec.eq_of_toNat_eq
  rw [fieldNN_toNat, encodeXNN_toNat]
  omega

@[simp] theorem fieldOp_encodeXYN (op : BitVec 4) (x y : Reg) (n : BitVec 4) : fieldOp (encodeXYN op x y n) = op := by
  apply BitVec.eq_of_toNat_eq
  rw [fieldOp_toNat, encodeXYN_toNat]
  omega

@[simp] theorem fieldX_encodeXYN (op : BitVec 4) (x y : Reg) (n : BitVec 4) : fieldX (encodeXYN op x y n) = x := by
  apply Fin.ext
  rw [fieldX_val, encodeXYN_toNat]
  omega

@[simp] theorem fieldY_encodeXYN (op : BitVec 4) (x y : Reg) (n : BitVec 4) : fieldY (encodeXYN op x y n) = y := by
  apply Fin.ext
  rw [fieldY_val, encodeXYN_toNat]
  omega

@[simp] theorem fieldN_encodeXYN (op : BitVec 4) (x y : Reg) (n : BitVec 4) : fieldN (encodeXYN op x y n) = n.toNat := by
  rw [fieldN_eq, encodeXYN_toNat]
  omega

/-! ### A word is put together again from its fields -/

theorem encodeNNN_of_fields {op : BitVec 4} (hop : fieldOp w = op) : encodeNNN op (fieldNNN w) = w := by
  subst hop
  apply BitVec.eq_of_toNat_eq
  rw [encodeNNN_toNat, fieldOp_toNat, fieldNNN_toNat]
  omega

theorem encodeXNN_of_fields {op : BitVec 4} {nn : Byte} (hop : fieldOp w = op) (hnn : fieldNN w = nn) :
    encodeXNN op (fieldX w) nn = w := by
  subst hop hnn
  apply BitVec.eq_of_toNat_eq
  rw [encodeXNN_toNat, fieldOp_toNat, fieldX_val, fieldNN_toNat]
  omega

theorem encodeXYN_of_fields {op n : BitVec 4} (hop : fieldOp w = op) (hn : fieldN w = n.toNat) :
    encodeXYN op (fieldX w) (fieldY w) n = w := by
  subst hop
  apply BitVec.eq_of_toNat_eq
  rw [encodeXYN_toNat, fieldOp_toNat, fieldX_val, fieldY_val, ← hn, fieldN_eq]
  omega

theorem encodeXYN_clearY (op : BitVec 4) (x y : Reg) (n : BitVec 4) :
    encodeXYN op x y n &&& 0xFF0F = encodeXYN op x 0 n := by
  apply BitVec.eq_of_getLsbD_eq
  intro k hk
  simp only [encodeXYN, nibbleOfReg, BitVec.getLsbD_and, BitVec.getLsbD_append]
  interval_cases k <;> simp

/-! ### Decoding, by the high nibble -/

theorem fieldN_lt (w : Word) : fieldN w < 16 := by
  rw [fieldN_eq]
  omega

/-- The groups of R104 whose every word is one instruction's. -/
def fullGroups : List (BitVec 4) := [0x1, 0x2, 0x3, 0x4, 0x6, 0x7, 0xA, 0xB, 0xC, 0xD]

/-- R104's routing on op as an inversion: a word of a full group decodes to an instruction whose word it is; each of the
other six groups has a sub-selector. -/
theorem decode_cases (w : Word) :
    (fieldOp w ∈ fullGroups ∧ ∃ i, decode w = .instr i ∧ i.wellFormed = true ∧ encode i = w) ∨
    (fieldOp w = 0x0 ∧ decode w = decode0 w) ∨
    (fieldOp w = 0x5 ∧ decode w = decode5 w) ∨
    (fieldOp w = 0x8 ∧ decode w = decode8 w) ∨
    (fieldOp w = 0x9 ∧ decode w = decode9 w) ∨
    (fieldOp w = 0xE ∧ decode w = decodeE w) ∨
    (fieldOp w = 0xF ∧ decode w = decodeF w) := by
  have split_ops : ∀ op : BitVec 4, op ∈ fullGroups ∨ op = 0x0 ∨ op = 0x5 ∨ op = 0x8 ∨ op = 0x9 ∨ op = 0xE ∨ op = 0xF := by
    decide
  rcases split_ops (fieldOp w) with hfull | h | h | h | h | h | h
  · refine .inl ⟨hfull, ?_⟩
    simp only [fullGroups, List.mem_cons, List.not_mem_nil, or_false] at hfull
    rcases hfull with h | h | h | h | h | h | h | h | h | h
    · exact ⟨.jp (fieldNNN w), by simp [decode, h], rfl, encodeNNN_of_fields h⟩
    · exact ⟨.call (fieldNNN w), by simp [decode, h], rfl, encodeNNN_of_fields h⟩
    · exact ⟨.seImm (fieldX w) (fieldNN w), by simp [decode, h], rfl, encodeXNN_of_fields h rfl⟩
    · exact ⟨.sneImm (fieldX w) (fieldNN w), by simp [decode, h], rfl, encodeXNN_of_fields h rfl⟩
    · exact ⟨.ldImm (fieldX w) (fieldNN w), by simp [decode, h], rfl, encodeXNN_of_fields h rfl⟩
    · exact ⟨.addImm (fieldX w) (fieldNN w), by simp [decode, h], rfl, encodeXNN_of_fields h rfl⟩
    · exact ⟨.ldI (fieldNNN w), by simp [decode, h], rfl, encodeNNN_of_fields h⟩
    · exact ⟨.jpV0 (fieldNNN w), by simp [decode, h], rfl, encodeNNN_of_fields h⟩
    · exact ⟨.rnd (fieldX w) (fieldNN w), by simp [decode, h], rfl, encodeXNN_of_fields h rfl⟩
    · have hn := fieldN_lt w
      exact ⟨.drw (fieldX w) (fieldY w) (fieldN w), by simp [decode, h], decide_eq_true (by omega),
        encodeXYN_of_fields h (by simp [Nat.mod_eq_of_lt hn])⟩
  all_goals simp [decode, h]

/-- Settles O1: the fields of the encoder's word are the selector and the operands it was built from. -/
theorem decodeOfEncodeIsTheInstruction : Obligations.DecodeOfEncodeIsTheInstruction := by
  intro i hi
  cases i with
  | cls | ret => decide
  | drw x y n =>
    have hn : n < 16 := by simp [Instr.wellFormed] at hi; omega
    simp [encode, decode, Nat.mod_eq_of_lt hn]
  | seReg x y | sneReg x y => simp [encode, decode, decode5, decode9]
  | ldReg x y | orReg x y | andReg x y | xorReg x y | addReg x y | sub x y | shr x | subn x y | shl x =>
    simp [encode, decode, decode8]
  | skp x | sknp x => simp [encode, decode, decodeE]
  | ldVxDt x | ldVxK x | ldDtVx x | ldStVx x | addIVx x | ldFVx x | ldBVx x | ldMemVx x | ldVxMem x =>
    simp [encode, decode, decodeF]
  | _ => simp [encode, decode]

/-! ### Encoding what was decoded (R83, R85) -/

/-- What O2 says of a word and the instruction it decodes to. -/
def Reencodes (i : Instr) (w : Word) : Prop :=
  i.wellFormed = true ∧ (encode i = w ∨ ∃ x : Reg, (i = .shr x ∨ i = .shl x) ∧ encode i = w &&& 0xFF0F)

/-- A shift's word up to the field y that R85 ignores. -/
theorem encodeXYN_shift_of_fields {op n : BitVec 4} (hop : fieldOp w = op) (hn : fieldN w = n.toNat) :
    encodeXYN op (fieldX w) 0 n = w &&& 0xFF0F := by
  rw [← encodeXYN_clearY op (fieldX w) (fieldY w), encodeXYN_of_fields hop hn]

theorem decode0_reencodes (h : decode0 w = .instr i) : Reencodes i w := by
  unfold decode0 at h
  split at h
  · next hw => cases h; exact ⟨rfl, .inl hw.symm⟩
  · split at h
    · next hw => cases h; exact ⟨rfl, .inl hw.symm⟩
    · cases h

theorem decode5_reencodes (hop : fieldOp w = 0x5) (h : decode5 w = .instr i) : Reencodes i w := by
  unfold decode5 at h
  split at h
  · next hn => cases h; exact ⟨rfl, .inl (encodeXYN_of_fields hop hn)⟩
  · cases h

theorem decode8_reencodes (hop : fieldOp w = 0x8) (h : decode8 w = .instr i) : Reencodes i w := by
  unfold decode8 at h
  split at h
  case h_7 hn => cases h; exact ⟨rfl, .inr ⟨fieldX w, .inl rfl, encodeXYN_shift_of_fields hop hn⟩⟩
  case h_9 hn => cases h; exact ⟨rfl, .inr ⟨fieldX w, .inr rfl, encodeXYN_shift_of_fields hop hn⟩⟩
  case h_10 => cases h
  all_goals next hn => cases h; exact ⟨rfl, .inl (encodeXYN_of_fields hop hn)⟩

theorem decode9_reencodes (hop : fieldOp w = 0x9) (h : decode9 w = .instr i) : Reencodes i w := by
  unfold decode9 at h
  split at h
  · next hn => cases h; exact ⟨rfl, .inl (encodeXYN_of_fields hop hn)⟩
  · cases h

theorem decodeE_reencodes (hop : fieldOp w = 0xE) (h : decodeE w = .instr i) : Reencodes i w := by
  unfold decodeE at h
  split at h
  · next hnn => cases h; exact ⟨rfl, .inl (encodeXNN_of_fields hop hnn)⟩
  · split at h
    · next hnn => cases h; exact ⟨rfl, .inl (encodeXNN_of_fields hop hnn)⟩
    · cases h

theorem decodeF_reencodes (hop : fieldOp w = 0xF) (h : decodeF w = .instr i) : Reencodes i w := by
  unfold decodeF at h
  split at h
  case h_10 => cases h
  all_goals next hnn => cases h; exact ⟨rfl, .inl (encodeXNN_of_fields hop (BitVec.eq_of_toNat_eq hnn))⟩

theorem decode_reencodes (h : decode w = .instr i) : Reencodes i w := by
  rcases decode_cases w with ⟨-, j, hd, hwf, henc⟩ | ⟨hop, hd⟩ | ⟨hop, hd⟩ | ⟨hop, hd⟩ | ⟨hop, hd⟩ | ⟨hop, hd⟩ | ⟨hop, hd⟩
  · obtain rfl : j = i := Decoded.instr.inj (hd.symm.trans h)
    exact ⟨hwf, .inl henc⟩
  · exact decode0_reencodes (hd.symm.trans h)
  · exact decode5_reencodes hop (hd.symm.trans h)
  · exact decode8_reencodes hop (hd.symm.trans h)
  · exact decode9_reencodes hop (hd.symm.trans h)
  · exact decodeE_reencodes hop (hd.symm.trans h)
  · exact decodeF_reencodes hop (hd.symm.trans h)

/-- Settles O2: each branch of the decoder fixes the selector, and selector and fields make the word. -/
theorem encodeOfDecodeIsTheWord : Obligations.EncodeOfDecodeIsTheWord := fun _ _ => decode_reencodes

/-! ### The unassigned words (R86, R88) -/

/-- R86's table of the words that no instruction has. -/
def Unassigned (w : Word) : Prop :=
  (fieldOp w = 0x0 ∧ w ≠ 0x00E0 ∧ w ≠ 0x00EE) ∨
  (fieldOp w = 0x5 ∧ fieldN w ≠ 0) ∨
  (fieldOp w = 0x8 ∧ fieldN w ∈ [0x8, 0x9, 0xA, 0xB, 0xC, 0xD, 0xF]) ∨
  (fieldOp w = 0x9 ∧ fieldN w ≠ 0) ∨
  (fieldOp w = 0xE ∧ (fieldNN w).toNat ∉ [0x9E, 0xA1]) ∨
  (fieldOp w = 0xF ∧ (fieldNN w).toNat ∉ [0x07, 0x0A, 0x15, 0x18, 0x1E, 0x29, 0x33, 0x55, 0x65])

variable {v : Word}

/-- The last branch of each group. -/
theorem nop_eq_nop_iff {p : Prop} (hp : p) : Decoded.nop w = .nop v ↔ v = w ∧ p := by
  simp [hp, eq_comm]

theorem decode0_eq_nop_iff : decode0 w = .nop v ↔ v = w ∧ w ≠ 0x00E0 ∧ w ≠ 0x00EE := by
  unfold decode0
  split
  · next h => simp [h]
  · split
    · next h => simp [h]
    · next h0 h1 => exact nop_eq_nop_iff ⟨h0, h1⟩

theorem decode5_eq_nop_iff : decode5 w = .nop v ↔ v = w ∧ fieldN w ≠ 0 := by
  unfold decode5
  split
  · next h => simp [h]
  · next h => exact nop_eq_nop_iff h

theorem decode8_eq_nop_iff : decode8 w = .nop v ↔ v = w ∧ fieldN w ∈ [0x8, 0x9, 0xA, 0xB, 0xC, 0xD, 0xF] := by
  unfold decode8
  split
  case h_10 =>
    have hn := fieldN_lt w
    apply nop_eq_nop_iff
    simp only [List.mem_cons, List.not_mem_nil, or_false, imp_false] at *
    omega
  all_goals next hn => simp [hn]

theorem decode9_eq_nop_iff : decode9 w = .nop v ↔ v = w ∧ fieldN w ≠ 0 := by
  unfold decode9
  split
  · next h => simp [h]
  · next h => exact nop_eq_nop_iff h

theorem decodeE_eq_nop_iff : decodeE w = .nop v ↔ v = w ∧ (fieldNN w).toNat ∉ [0x9E, 0xA1] := by
  unfold decodeE
  split
  · next h => simp [h]
  · split
    · next h => simp [h]
    · next h0 h1 =>
      have h0' : (fieldNN w).toNat ≠ 0x9E := fun h => h0 (BitVec.eq_of_toNat_eq h)
      have h1' : (fieldNN w).toNat ≠ 0xA1 := fun h => h1 (BitVec.eq_of_toNat_eq h)
      exact nop_eq_nop_iff (by simp [h0', h1'])

theorem decodeF_eq_nop_iff : decodeF w = .nop v ↔
    v = w ∧ (fieldNN w).toNat ∉ [0x07, 0x0A, 0x15, 0x18, 0x1E, 0x29, 0x33, 0x55, 0x65] := by
  unfold decodeF
  split
  case h_10 => exact nop_eq_nop_iff (by simp_all)
  all_goals next hnn => simp [hnn]

theorem Unassigned.not_mem_fullGroups (h : Unassigned w) : fieldOp w ∉ fullGroups := by
  rcases h with ⟨hop, -⟩ | ⟨hop, -⟩ | ⟨hop, -⟩ | ⟨hop, -⟩ | ⟨hop, -⟩ | ⟨hop, -⟩ <;> rw [hop] <;> decide

theorem decode_eq_nop_iff : decode w = .nop v ↔ v = w ∧ Unassigned w := by
  rcases decode_cases w with ⟨hop, i, hd, -, -⟩ | ⟨hop, hd⟩ | ⟨hop, hd⟩ | ⟨hop, hd⟩ | ⟨hop, hd⟩ | ⟨hop, hd⟩ | ⟨hop, hd⟩
  · have hassigned : ¬ Unassigned w := fun h => h.not_mem_fullGroups hop
    simp [hd, hassigned]
  · simp [hd, hop, Unassigned, decode0_eq_nop_iff]
  · simp [hd, hop, Unassigned, decode5_eq_nop_iff]
  · simp [hd, hop, Unassigned, decode8_eq_nop_iff]
  · simp [hd, hop, Unassigned, decode9_eq_nop_iff]
  · simp [hd, hop, Unassigned, decodeE_eq_nop_iff]
  · simp [hd, hop, Unassigned, decodeF_eq_nop_iff]

/-- Settles O5: group by group, the words the decoder answers nop for are R86's. -/
theorem unassignedWordsAreThoseOfTheTable : Obligations.UnassignedWordsAreThoseOfTheTable :=
  ⟨fun _ _ h => (decode_eq_nop_iff.mp h).1, fun _ => decode_eq_nop_iff.trans (and_iff_right rfl)⟩

/-! ### The opcode table -/

theorem OpcodeRow.selects_iff (r : OpcodeRow) (w : Word) : r.selects w = true ↔ w &&& r.mask = r.pattern := beq_iff_eq

theorem opcodeTable_compatible : ∀ r ∈ opcodeTable, ∀ q ∈ opcodeTable,
    r.pattern &&& q.mask = q.pattern &&& r.mask → r = q := by
  decide

theorem opcodeTable_selects_unique {r q : OpcodeRow} (hr : r ∈ opcodeTable) (hq : q ∈ opcodeTable)
    (hrw : r.selects w = true) (hqw : q.selects w = true) : r = q := by
  apply opcodeTable_compatible r hr q hq
  rw [← (r.selects_iff w).mp hrw, ← (q.selects_iff w).mp hqw, BitVec.and_assoc, BitVec.and_assoc, BitVec.and_comm r.mask]

/-- Settles O4: rows that select one word agree where both masks look, and no two rows of the table do. -/
theorem noTwoTableRowsOverlap : Obligations.NoTwoTableRowsOverlap :=
  ⟨rfl, fun _ _ _ => opcodeTable_selects_unique⟩

theorem opcodeTable_find?_of_selects {r : OpcodeRow} (hr : r ∈ opcodeTable) (hrw : r.selects w = true) :
    opcodeTable.find? (fun r => r.selects w) = some r := by
  obtain ⟨q, hq⟩ := Option.isSome_iff_exists.mp ((List.find?_isSome (p := fun r => r.selects w)).mpr ⟨r, hr, hrw⟩)
  have hqw : q.selects w = true := List.find?_some (p := fun q : OpcodeRow => q.selects w) hq
  rw [hq, opcodeTable_selects_unique (List.mem_of_find?_eq_some hq) hr hqw hrw]

/-- Every instruction's word has the fixed bits of its row. -/
theorem encode_fixedBits : ∀ i : Instr, Laws.FixedBits.Statement i
  | .cls => Laws.FixedBits.cls
  | .ret => Laws.FixedBits.ret
  | .jp nnn => Laws.FixedBits.jp nnn
  | .call nnn => Laws.FixedBits.call nnn
  | .seImm x nn => Laws.FixedBits.seImm x nn
  | .sneImm x nn => Laws.FixedBits.sneImm x nn
  | .seReg x y => Laws.FixedBits.seReg x y
  | .ldImm x nn => Laws.FixedBits.ldImm x nn
  | .addImm x nn => Laws.FixedBits.addImm x nn
  | .ldReg x y => Laws.FixedBits.ldReg x y
  | .orReg x y => Laws.FixedBits.orReg x y
  | .andReg x y => Laws.FixedBits.andReg x y
  | .xorReg x y => Laws.FixedBits.xorReg x y
  | .addReg x y => Laws.FixedBits.addReg x y
  | .sub x y => Laws.FixedBits.sub x y
  | .shr x => Laws.FixedBits.shr x
  | .subn x y => Laws.FixedBits.subn x y
  | .shl x => Laws.FixedBits.shl x
  | .sneReg x y => Laws.FixedBits.sneReg x y
  | .ldI nnn => Laws.FixedBits.ldI nnn
  | .jpV0 nnn => Laws.FixedBits.jpV0 nnn
  | .rnd x nn => Laws.FixedBits.rnd x nn
  | .drw x y n => Laws.FixedBits.drw x y n
  | .skp x => Laws.FixedBits.skp x
  | .sknp x => Laws.FixedBits.sknp x
  | .ldVxDt x => Laws.FixedBits.ldVxDt x
  | .ldVxK x => Laws.FixedBits.ldVxK x
  | .ldDtVx x => Laws.FixedBits.ldDtVx x
  | .ldStVx x => Laws.FixedBits.ldStVx x
  | .addIVx x => Laws.FixedBits.addIVx x
  | .ldFVx x => Laws.FixedBits.ldFVx x
  | .ldBVx x => Laws.FixedBits.ldBVx x
  | .ldMemVx x => Laws.FixedBits.ldMemVx x
  | .ldVxMem x => Laws.FixedBits.ldVxMem x

/-- The masks of rows 16 and 18 leave out the field y. -/
theorem opcodeTable_shift_masks : ∀ r ∈ opcodeTable, r.num = 16 ∨ r.num = 18 → 0xFF0F &&& r.mask = r.mask := by decide

/-- An assigned word has the fixed bits that the encoder's word of its instruction has. -/
theorem selects_of_decode (h : decode w = .instr i) : ∃ r ∈ opcodeTable, r.num = i.row ∧ r.selects w = true := by
  obtain ⟨r, hr, hnum, hbits⟩ := encode_fixedBits i
  refine ⟨r, hr, hnum, (r.selects_iff w).mpr ?_⟩
  obtain ⟨-, henc | ⟨x, hi, henc⟩⟩ := decode_reencodes h
  · rwa [henc] at hbits
  · have hshift : r.num = 16 ∨ r.num = 18 := by
      rcases hi with rfl | rfl
      · exact .inl hnum
      · exact .inr hnum
    rwa [henc, BitVec.and_assoc, opcodeTable_shift_masks r hr hshift] at hbits

/-- Each mask looks at the whole of op and of its group's sub-selector. -/
theorem opcodeTable_masks : ∀ r ∈ opcodeTable,
    fieldOp r.mask = BitVec.allOnes 4 ∧
    (fieldOp r.pattern = 0x0 → r.mask = BitVec.allOnes 16) ∧
    (fieldOp r.pattern ∈ [0x5, 0x8, 0x9] → r.mask.extractLsb' 0 4 = BitVec.allOnes 4) ∧
    (fieldOp r.pattern ∈ [0xE, 0xF] → fieldNN r.mask = BitVec.allOnes 8) := by
  decide

theorem opcodeTable_patterns_decode : ∀ r ∈ opcodeTable, (decode r.pattern).row = some r.num := by decide

/-- A field that a row's mask covers is, in every word the row selects, the field of the pattern. -/
theorem OpcodeRow.extractLsb'_of_selects {r : OpcodeRow} (hsel : r.selects w = true) {k n : Nat}
    (hmask : r.mask.extractLsb' k n = BitVec.allOnes n) : w.extractLsb' k n = r.pattern.extractLsb' k n := by
  rw [← (r.selects_iff w).mp hsel, BitVec.extractLsb'_and, hmask, BitVec.and_allOnes]

/-- What R86 reads of a word is covered by the masks. -/
theorem Unassigned.pattern_of_selects {r : OpcodeRow} (hr : r ∈ opcodeTable) (hsel : r.selects w = true)
    (h : Unassigned w) : Unassigned r.pattern := by
  obtain ⟨hmaskOp, hmask0, hmaskN, hmaskNN⟩ := opcodeTable_masks r hr
  have hop : fieldOp w = fieldOp r.pattern := OpcodeRow.extractLsb'_of_selects hsel hmaskOp
  have hn (hg : fieldOp r.pattern ∈ [0x5, 0x8, 0x9]) : fieldN w = fieldN r.pattern :=
    congrArg BitVec.toNat (OpcodeRow.extractLsb'_of_selects hsel (hmaskN hg))
  have hnn (hg : fieldOp r.pattern ∈ [0xE, 0xF]) : fieldNN w = fieldNN r.pattern :=
    OpcodeRow.extractLsb'_of_selects hsel (hmaskNN hg)
  unfold Unassigned at h
  rw [hop] at h
  rcases h with ⟨hg, hsub⟩ | ⟨hg, hsub⟩ | ⟨hg, hsub⟩ | ⟨hg, hsub⟩ | ⟨hg, hsub⟩ | ⟨hg, hsub⟩
  · have hw : w = r.pattern := by rw [← (r.selects_iff w).mp hsel, hmask0 hg, BitVec.and_allOnes]
    exact .inl ⟨hg, hw ▸ hsub⟩
  · exact .inr (.inl ⟨hg, hn (by simp [hg]) ▸ hsub⟩)
  · exact .inr (.inr (.inl ⟨hg, hn (by simp [hg]) ▸ hsub⟩))
  · exact .inr (.inr (.inr (.inl ⟨hg, hn (by simp [hg]) ▸ hsub⟩)))
  · exact .inr (.inr (.inr (.inr (.inl ⟨hg, hnn (by simp [hg]) ▸ hsub⟩))))
  · exact .inr (.inr (.inr (.inr (.inr ⟨hg, hnn (by simp [hg]) ▸ hsub⟩))))

/-- No row selects an unassigned word, because no row's pattern is one. -/
theorem not_selects_of_unassigned (h : Unassigned w) {r : OpcodeRow} (hr : r ∈ opcodeTable) : ¬ r.selects w = true := by
  intro hsel
  have hnop : decode r.pattern = .nop r.pattern := decode_eq_nop_iff.mpr ⟨rfl, h.pattern_of_selects hr hsel⟩
  simpa [hnop, Decoded.row] using opcodeTable_patterns_decode r hr

/-- Settles O3: an assigned word is selected by its instruction's row, so by no other; an unassigned one by none. -/
theorem decodeSelectsTheTableRow : Obligations.DecodeSelectsTheTableRow := by
  intro w
  cases hd : decode w with
  | instr i =>
    obtain ⟨r, hr, hnum, hsel⟩ := selects_of_decode hd
    simp [opcodeTable_find?_of_selects hr hsel, Decoded.row, hnum]
  | nop v =>
    obtain ⟨-, hw⟩ := decode_eq_nop_iff.mp hd
    rw [List.find?_eq_none.mpr fun r hr => not_selects_of_unassigned hw hr]
    rfl

/-! ### Sample words and ignored fields -/

/-- Settles O7: the decoder runs on each word. -/
theorem sampleWordsDecode : Obligations.SampleWordsDecode := by
  unfold Obligations.SampleWordsDecode
  decide

/-- The word of the form `op x y n` as R83 writes it, a sum. -/
theorem ofNat_eq_encodeXYN (op n : BitVec 4) (x y : Reg) :
    BitVec.ofNat 16 (op.toNat * 0x1000 + n.toNat + x.val * 0x100 + y.val * 0x10) = encodeXYN op x y n := by
  apply BitVec.eq_of_toNat_eq
  rw [encodeXYN_toNat, BitVec.toNat_ofNat]
  omega

/-- Settles O8: the branches of 8xy6 and 8xyE read x alone. -/
theorem ignoredFieldsDoNotMatter : Obligations.IgnoredFieldsDoNotMatter := by
  intro x y
  have hshr : BitVec.ofNat 16 (0x8006 + x.val * 0x100 + y.val * 0x10) = encodeXYN 0x8 x y 0x6 := ofNat_eq_encodeXYN 0x8 0x6 x y
  have hshl : BitVec.ofNat 16 (0x800E + x.val * 0x100 + y.val * 0x10) = encodeXYN 0x8 x y 0xE := ofNat_eq_encodeXYN 0x8 0xE x y
  rw [hshr, hshl]
  constructor <;> simp [decode, decode8]

end Sys2Proof
end

/-! ### Proofs: the step (40_step_dispatch.md) -/

section

namespace Sys2Proof.Machine

variable {s t : State} {i : Instr}

/-! ### Fields and dispatch (R103 to R105, R107) -/

/-- Settles O6: each field is a shift and a mask of the word. -/
theorem fieldsAreTheBitsOfTheWord : Obligations.FieldsAreTheBitsOfTheWord :=
  fun w => ⟨fieldOp_toNat w, fieldX_val w, fieldY_val w, fieldN_eq w, fieldNN_toNat w, fieldNNN_toNat w⟩

/-- Settles O9: the branch of step for an assigned word. -/
theorem stepRunsTheDecodedInstruction : Obligations.StepRunsTheDecodedInstruction := fun _ _ => step_of_instr

/-- A step whose instruction answers u. -/
theorem step_of_exec {u : State} (hd : decode s.fetchWord = .instr i) (hu : exec i s.afterFetch = .next u) :
    step s = .next u.consumeRnd := by
  rw [step_of_instr hd, hu, onNext_next]

/-- Every instruction answers a next state in every state: its frame says which parts that state keeps. -/
theorem exec_answers_next (i : Instr) (s : State) : ∃ t, exec i s = .next t := by
  obtain ⟨t, ht, -⟩ := exec_frame i s
  exact ⟨t, ht⟩

/-- Settles O12: an unassigned word answers next by itself, an assigned one because every instruction does. -/
theorem stepAlwaysAnswersNext : Obligations.StepAlwaysAnswersNext := ⟨step_answers_next, exec_answers_next⟩

/-! ### The fetch (R101, R102) -/

theorem State.afterFetch_pc (s : State) : s.afterFetch.pc = s.norm ((s.pc.toNat : Int) + 2) := by
  rw [State.afterFetch_eq]

/-- PC + k, for the k the fetch uses, is a value that addr() answers. -/
theorem State.norm_pc_addrResult (s : State) {k : Int} (hk : 0 ≤ k ∧ k ≤ 2) :
    AddrResult s (s.pc.toNat + k) (s.norm (s.pc.toNat + k)) := by
  have hpc := s.pc.isLt
  exact s.norm_addrResult _ (by omega)

theorem State.fetchWord_toNat (s : State) :
    s.fetchWord.toNat = (s.readByte s.pc).toNat * 256 + (s.readByte (s.norm ((s.pc.toNat : Int) + 1))).toNat :=
  wordOfBytes_toNat _ _

theorem State.afterFetch_pc_addrResult (s : State) : AddrResult s (s.pc.toNat + 2) s.afterFetch.pc := by
  rw [State.afterFetch_pc]
  exact s.norm_pc_addrResult (by decide)

/-- One addr() call whose answer goes to PC. -/
theorem State.gotoPC_reports (s : State) (v : Int) : AddrReports s (s.gotoPC v) [v] :=
  AddrReports_congr (s.noteAddr_reports v) (s.gotoPC_events v) (s.gotoPC_err v)

/-- The second byte's address reports first, then the new PC. -/
theorem State.afterFetch_reports (s : State) :
    AddrReports { s with events := [] } s.afterFetch [(s.pc.toNat : Int) + 1, (s.pc.toNat : Int) + 2] := by
  rw [State.afterFetch, ← List.singleton_append]
  exact AddrReports_append (State.noteAddr_reports _ _) (State.gotoPC_reports _ _)

theorem State.afterFetch_unchanged (s : State) : Unchanged [.pc, .err, .events] s s.afterFetch := by
  rw [State.afterFetch_eq]
  intro p hp
  cases p <;> simp [Part.same, State.getV, State.pixel, State.readByte] at hp ⊢

/-- Settles O10: the fetch is two addr() calls, and it writes only PC, ERR and the event list. -/
theorem fetchReadsTheWordAndAdvancesPC : Obligations.FetchReadsTheWordAndAdvancesPC :=
  fun s => ⟨⟨_, s.norm_pc_addrResult (by decide), s.fetchWord_toNat⟩, s.afterFetch_pc_addrResult, s.afterFetch_reports,
    s.afterFetch_unchanged⟩

/-! ### The frame of a step (R106, R109) -/

theorem State.consumeRnd_unchanged (s : State) : Unchanged [.inputs] s s.consumeRnd := by
  intro p hp
  cases p <;> simp [Part.same] at hp ⊢

/-- The frame of a step of an unassigned word: that of the fetch, and the random byte. -/
theorem step_frame_of_nop (s : State) : Unchanged [.pc, .err, .events, .inputs] s s.afterFetch.consumeRnd :=
  (s.afterFetch_unchanged.mono (by decide)).trans ((State.consumeRnd_unchanged _).mono (by decide))

/-- Settles O11: the step ends in what the fetch left, but for the random byte. -/
theorem unassignedWordOnlyAdvancesPC : Obligations.UnassignedWordOnlyAdvancesPC := by
  intro s w hd
  obtain ⟨hrnd, hdraws⟩ := s.afterFetch_unchanged .inputs (by decide)
  refine ⟨_, step_of_nop hd, ?_, ?_, ?_, ?_, step_frame_of_nop s⟩
  · rw [State.consumeRnd_pc]
    exact s.afterFetch_pc_addrResult
  · exact AddrReports_congr s.afterFetch_reports (State.consumeRnd_events _) (State.consumeRnd_err _)
  · rw [State.consumeRnd_rndIn, hrnd]
  · rw [State.consumeRnd_draws, hdraws]

/-- The frame of a step of an assigned word: that of the fetch, of the instruction, and the random byte. -/
theorem step_frame_of_instr (hd : decode s.fetchWord = .instr i) :
    ∃ u, exec i s.afterFetch = .next u ∧ step s = .next u.consumeRnd ∧
      Unchanged ([.pc, .err, .events, .inputs] ++ writeParts i) s u.consumeRnd := by
  obtain ⟨u, hu, hexec, -⟩ := exec_frame i s.afterFetch
  refine ⟨u, hu, step_of_exec hd hu, ?_⟩
  have hfetch := s.afterFetch_unchanged.mono (f := [.pc, .err, .events, .inputs] ++ writeParts i) (by simp)
  have hrnd := u.consumeRnd_unchanged.mono (f := [.pc, .err, .events, .inputs] ++ writeParts i) (by simp)
  exact (hfetch.trans (hexec.mono (List.subset_append_right _ _))).trans hrnd

/-- A part that a step changes, and neither the fetch nor the random byte does, is one its instruction is tabled to write. -/
theorem mem_writeParts_of_not_same {p : Part} (hframe : Unchanged ([.pc, .err, .events, .inputs] ++ writeParts i) s t)
    (hp : p ∉ [.pc, .err, .events, .inputs]) (hne : ¬ p.same s t) : p ∈ writeParts i := by
  by_contra hno
  exact hne (hframe p (List.not_mem_append hp hno))

theorem keys_not_mem_writeParts (i : Instr) : Part.keys ∉ writeParts i := by
  cases i <;> simp [writeParts]

/-- Only Fx15 is tabled to write DT. -/
theorem delay_mem_writeParts : Part.delay ∈ writeParts i ↔ ∃ x, i = .ldDtVx x := by
  cases i <;> simp [writeParts]

/-- Only Fx18 is tabled to write ST. -/
theorem sound_mem_writeParts : Part.sound ∈ writeParts i ↔ ∃ x, i = .ldStVx x := by
  cases i <;> simp [writeParts]

/-- The fetch writes no register. -/
theorem State.afterFetch_getV (s : State) (x : Reg) : s.afterFetch.getV x = s.getV x :=
  s.afterFetch_unchanged .regs (by decide) x

/-- Settles O15: a timer that changes is outside the frame of the step, so the instruction is the one tabled to write it. -/
theorem onlyFx15AndFx18ChangeTheTimers : Obligations.OnlyFx15AndFx18ChangeTheTimers := by
  intro s
  cases hd : decode s.fetchWord with
  | nop w =>
    have hframe := step_frame_of_nop s
    exact ⟨_, step_of_nop hd, hframe .keys (by decide), fun hne => absurd (hframe .delay (by decide)) hne,
      fun hne => absurd (hframe .sound (by decide)) hne⟩
  | instr i =>
    obtain ⟨u, hu, hst, hframe⟩ := step_frame_of_instr hd
    refine ⟨_, hst, hframe .keys (List.not_mem_append (by decide) (keys_not_mem_writeParts i)), fun hne => ?_, fun hne => ?_⟩
    · have hwrites : Part.delay ∈ writeParts i := mem_writeParts_of_not_same hframe (by decide) hne
      obtain ⟨x, rfl⟩ := delay_mem_writeParts.mp hwrites
      obtain rfl := Host.Outcome.next.inj hu
      exact ⟨x, rfl, s.afterFetch_getV x⟩
    · have hwrites : Part.sound ∈ writeParts i := mem_writeParts_of_not_same hframe (by decide) hne
      obtain ⟨x, rfl⟩ := sound_mem_writeParts.mp hwrites
      obtain rfl := Host.Outcome.next.inj hu
      exact ⟨x, rfl, s.afterFetch_getV x⟩

/-! ### A state with other random inputs (R100, R108, R171; log 4)

No operation reads or writes the two input fields but rndByte, which Cxnn alone calls, and consumeRnd. So every other operation
commutes with putting other values there. -/

variable {l : List Byte} {d : Nat} {v : Int}

/-- The same state with other random inputs. -/
def State.withInputs (s : State) (l : List Byte) (d : Nat) : State := { s with rndIn := l, draws := d }

theorem State.withInputs_norm : (s.withInputs l d).norm v = s.norm v := rfl
theorem State.withInputs_indexPlus (k : Nat) : (s.withInputs l d).indexPlus k = s.indexPlus k := rfl
theorem State.withInputs_readByte (a : Addr) : (s.withInputs l d).readByte a = s.readByte a := rfl
theorem State.withInputs_rndByte (s t : State) : (s.withInputs l d).rndByte = (t.withInputs l d).rndByte := rfl
theorem State.withInputs_pixel (r : Fin 32) (c : Fin 64) : (s.withInputs l d).pixel r c = s.pixel r c := rfl

theorem State.noteAddr_withInputs (v : Int) : (s.withInputs l d).noteAddr v = (s.noteAddr v).withInputs l d := by
  unfold State.noteAddr
  split <;> rfl

theorem State.noteKey_withInputs (b : Byte) : (s.withInputs l d).noteKey b = (s.noteKey b).withInputs l d := by
  unfold State.noteKey
  split <;> rfl

theorem State.gotoPC_withInputs (v : Int) : (s.withInputs l d).gotoPC v = (s.gotoPC v).withInputs l d :=
  congrArg (State.setPC · (s.norm v)) (State.noteAddr_withInputs v)

theorem State.gotoI_withInputs (v : Int) : (s.withInputs l d).gotoI v = (s.gotoI v).withInputs l d :=
  congrArg (State.setI · (s.norm v)) (State.noteAddr_withInputs v)

theorem State.storeAt_withInputs (v : Int) (b : Byte) : (s.withInputs l d).storeAt v b = (s.storeAt v b).withInputs l d :=
  congrArg (State.writeByte · (s.norm v) b) (State.noteAddr_withInputs v)

theorem State.skipIf_withInputs (c : Bool) : (s.withInputs l d).skipIf c = (s.skipIf c).withInputs l d := by
  cases c with
  | false => rfl
  | true => exact State.gotoPC_withInputs _

theorem State.storeBytes_withInputs (s : State) (bs : List Byte) (v : Int) :
    (s.withInputs l d).storeBytes v bs = (s.storeBytes v bs).withInputs l d := by
  induction bs generalizing s v with
  | nil => rfl
  | cons b rest ih =>
    rw [State.storeBytes, State.storeBytes, State.storeAt_withInputs, ih]

theorem State.loadRegs_withInputs (s : State) (rs : List Reg) (v : Int) :
    (s.withInputs l d).loadRegs v rs = (s.loadRegs v rs).withInputs l d := by
  induction rs generalizing s v with
  | nil => rfl
  | cons r rest ih =>
    rw [State.loadRegs, State.loadRegs, State.noteAddr_withInputs, State.withInputs_norm, State.withInputs_readByte, ← ih]
    rfl

theorem State.plot_withInputs (r : Fin 32) (c : Fin 64) : (s.withInputs l d).plot r c = (s.plot r c).withInputs l d := by
  rw [State.plot, State.plot, State.withInputs_pixel]
  split <;> rfl

theorem State.drawCols_withInputs (s : State) (r : Fin 32) (x0 : Nat) (b : Byte) (cols : List Nat) :
    (s.withInputs l d).drawCols r x0 b cols = (s.drawCols r x0 b cols).withInputs l d := by
  induction cols generalizing s with
  | nil => rfl
  | cons col rest ih =>
    rw [State.drawCols, State.drawCols]
    split
    · split
      · rw [State.plot_withInputs, ih]
      · exact ih s
    · rfl

theorem State.drawRows_withInputs (s : State) (x0 y0 : Nat) (rows : List Nat) :
    (s.withInputs l d).drawRows x0 y0 rows = (s.drawRows x0 y0 rows).withInputs l d := by
  induction rows generalizing s with
  | nil => rfl
  | cons row rest ih =>
    rw [State.drawRows, State.drawRows]
    split
    · rw [State.withInputs_indexPlus, State.withInputs_norm, State.withInputs_readByte, State.noteAddr_withInputs,
        State.drawCols_withInputs, ih]
    · rfl

/-- Every instruction's meaning, given that Cxnn draws the same byte. -/
theorem exec_withInputs (i : Instr) (s : State) (l : List Byte) (d : Nat)
    (hrnd : ∀ x nn, i = .rnd x nn → (s.withInputs l d).rndByte = s.rndByte) :
    ∃ t t', exec i s = .next t ∧ exec i (s.withInputs l d) = .next t' ∧ t' = t.withInputs l d := by
  cases i with
  | cls | jp _ | ldI _ | ldFVx _ | ldDtVx _ | ldStVx _ => exact ⟨_, _, rfl, rfl, rfl⟩
  | ldImm _ _ | addImm _ _ | ldReg _ _ | orReg _ _ | andReg _ _ | xorReg _ _ | ldVxDt _ => exact ⟨_, _, rfl, rfl, rfl⟩
  | addReg _ _ | sub _ _ | shr _ | subn _ _ | shl _ => exact ⟨_, _, rfl, rfl, rfl⟩
  | rnd x nn => exact ⟨_, _, rfl, rfl, congrArg (fun b => (s.withInputs l d).setV x (b &&& nn)) (hrnd x nn rfl)⟩
  | seImm _ _ | sneImm _ _ | seReg _ _ | sneReg _ _ => exact ⟨_, _, rfl, rfl, State.skipIf_withInputs _⟩
  | skp x | sknp x =>
    have hkey := State.noteKey_withInputs (s := s) (l := l) (d := d) (s.getV x)
    exact ⟨_, _, rfl, rfl, (congrArg (State.skipIf · _) hkey).trans (State.skipIf_withInputs _)⟩
  | ret =>
    rcases Nat.eq_zero_or_pos s.sp.val with hsp | hsp
    · exact ⟨_, _, exec_ret_of_empty hsp, exec_ret_of_empty hsp, rfl⟩
    · exact ⟨_, _, exec_ret_of_pos hsp, exec_ret_of_pos (s := s.withInputs l d) hsp, rfl⟩
  | call nnn =>
    rcases s.sp_eq_full_or_lt with hsp | hsp
    · exact ⟨_, _, exec_call_of_full nnn hsp, exec_call_of_full nnn hsp, rfl⟩
    · exact ⟨_, _, exec_call_of_lt nnn hsp, exec_call_of_lt (s := s.withInputs l d) nnn hsp, rfl⟩
  | jpV0 _ => exact ⟨_, _, rfl, rfl, State.gotoPC_withInputs _⟩
  | drw x y n => exact ⟨_, _, rfl, rfl, (s.setV vF 0).drawRows_withInputs _ _ _⟩
  | ldVxK x =>
    cases hk : s.lowestKey with
    | none => exact ⟨_, _, exec_ldVxK_of_none x hk, exec_ldVxK_of_none x hk, State.gotoPC_withInputs _⟩
    | some k => exact ⟨_, _, exec_ldVxK_of_some x hk, exec_ldVxK_of_some x hk, rfl⟩
  | addIVx _ => exact ⟨_, _, rfl, rfl, State.gotoI_withInputs _⟩
  | ldBVx _ | ldMemVx _ => exact ⟨_, _, rfl, rfl, s.storeBytes_withInputs _ _⟩
  | ldVxMem _ => exact ⟨_, _, rfl, rfl, s.loadRegs_withInputs _ _⟩

/-- Settles O14: no meaning but that of Cxnn reads the random input. -/
theorem onlyRndReadsTheRandomByte : Obligations.OnlyRndReadsTheRandomByte := by
  intro i s l d hi
  obtain ⟨t, _, ht, ht', rfl⟩ := exec_withInputs i s l d fun x nn e => absurd e (hi x nn)
  exact ⟨t, ht, ht'⟩

theorem State.afterFetch_withInputs : (s.withInputs l d).afterFetch = s.afterFetch.withInputs l d := by
  rw [State.afterFetch, State.afterFetch, ← State.gotoPC_withInputs, ← State.noteAddr_withInputs]
  rfl

/-- The fetch draws nothing. -/
theorem State.afterFetch_rndByte (s : State) : s.afterFetch.rndByte = s.rndByte := by
  rw [State.afterFetch, State.gotoPC_rndByte, State.noteAddr_rndByte]
  rfl

/-- A step with other inputs that yield the same byte, the one the step consumes. -/
theorem step_withInputs (s : State) (l : List Byte) (d : Nat) (hrnd : (s.withInputs l d).rndByte = s.rndByte) :
    ∃ t, step s = .next t ∧ step (s.withInputs l d) = .next (t.withInputs l.tail (d + 1)) := by
  cases hd : decode s.fetchWord with
  | instr i =>
    have hdraw : (s.afterFetch.withInputs l d).rndByte = s.afterFetch.rndByte :=
      (State.withInputs_rndByte _ s).trans (hrnd.trans s.afterFetch_rndByte.symm)
    obtain ⟨t, _, ht, ht', rfl⟩ := exec_withInputs i s.afterFetch l d fun _ _ _ => hdraw
    rw [← State.afterFetch_withInputs] at ht'
    exact ⟨_, step_of_exec hd ht, step_of_exec (s := s.withInputs l d) hd ht'⟩
  | nop w =>
    refine ⟨_, step_of_nop hd, ?_⟩
    rw [step_of_nop (s := s.withInputs l d) hd, State.afterFetch_withInputs]
    rfl

/-- Settles O13: STEP(rnd) puts rnd first, so the step draws rnd and consumes it, whatever stands behind it. -/
theorem stepDependsOnStateAndRndOnly : Obligations.StepDependsOnStateAndRndOnly :=
  fun rnd s l d => step_withInputs { s with rndIn := rnd :: s.rndIn } (rnd :: l) d rfl

end Sys2Proof.Machine
end

/-! ### Proofs: control flow (41_control_flow.md) -/

section

namespace Sys2Proof.Machine

variable {s t : State}

/-! ### The stack (R120 to R122) -/

/-- A write of STACK and SP alone. -/
theorem State.withStack_unchanged (s : State) (k : Vector Addr 16) (n : Fin 17) :
    Unchanged [.stack] s { s with stack := k, sp := n } := by
  intro p hp
  cases p <;> simp [Part.same, State.getV, State.pixel, State.readByte] at hp ⊢

/-- A call and a return write PC after the stack. -/
theorem Unchanged.setPC {e : List Part} (h : Unchanged e s t) (a : Addr) : Unchanged (.pc :: e) s (t.setPC a) :=
  (h.mono (by simp)).trans ((t.setPC_unchanged a).mono (by simp))

/-- Settles O20: push stores at the entry SP when that is below 16, and raises StackOverflow when it is 16. -/
theorem pushStoresOrReportsOverflow : Obligations.PushStoresOrReportsOverflow := by
  refine fun s a => ⟨fun d hd => ?_, fun hfull => ?_⟩
  · have hroom : s.sp.val < 16 := by omega
    refine ⟨_, State.push_of_lt a hroom, congrArg (· + 1) hd, ?_, fun e he => ?_, s.withStack_unchanged _ _⟩
    · show (s.stack.set s.sp.val a hroom)[d.val] = a
      simp [hd]
    · have hne : s.sp.val ≠ e.val := fun h => he (Fin.ext (h.symm.trans hd))
      exact Vector.getElem_set_ne hroom e.isLt hne
  · exact ⟨_, State.push_of_full a hfull, rfl, rfl, s.raise_unchanged _⟩

/-- 2nnn jumps when its push succeeds (R124). -/
theorem exec_call_of_push (nnn : Addr) (h : s.push s.pc = (true, t)) : exec (.call nnn) s = .next (t.setPC nnn) := by
  show execCall nnn s = _
  rw [execCall, h]

/-- Settles O21: 2nnn is push of the advanced PC, and the jump if the push succeeds. -/
theorem callPushesTheReturnAddress : Obligations.CallPushesTheReturnAddress := by
  intro nnn s
  obtain ⟨hpush, -⟩ := pushStoresOrReportsOverflow s s.pc
  rcases s.sp_eq_full_or_lt with hfull | hroom
  · exact ⟨_, exec_call_of_full nnn hfull, fun d hd => by omega, fun _ => ⟨rfl, rfl, s.raise_unchanged _⟩⟩
  · obtain ⟨t, ht, hsp, htop, hrest, hframe⟩ := hpush ⟨s.sp.val, hroom⟩ rfl
    refine ⟨_, exec_call_of_push nnn ht, fun d hd => ?_, fun hfull => by omega⟩
    obtain rfl : ⟨s.sp.val, hroom⟩ = d := Fin.ext hd
    exact ⟨rfl, hsp, htop, hrest, hframe.setPC nnn⟩

/-- Settles O22: 00EE reads the entry below SP and lowers SP, and raises StackUnderflow when SP is 0. -/
theorem returnPopsTheTopEntry : Obligations.ReturnPopsTheTopEntry := by
  intro s
  rcases Nat.eq_zero_or_pos s.sp.val with hempty | hpos
  · exact ⟨_, exec_ret_of_empty hempty, fun d hd => by omega, fun _ => ⟨rfl, rfl, s.raise_unchanged _⟩⟩
  · refine ⟨_, exec_ret_of_pos hpos, fun d hd => ?_, fun hempty => by omega⟩
    refine ⟨?_, by simp [hd], fun _ => rfl, (s.withStack_unchanged s.stack _).setPC _⟩
    show s.stack[s.sp.val - 1] = s.stack[d.val]
    simp [hd]

/-- Settles O23: the call leaves the old PC in the entry below SP (O21), which is the one the return pops (O22). -/
theorem returnUndoesCall : Obligations.ReturnUndoesCall := by
  intro nnn s hroom
  obtain ⟨t, ht, hcall, -⟩ := callPushesTheReturnAddress nnn s
  obtain ⟨-, hsp, htop, -, -⟩ := hcall ⟨s.sp.val, hroom⟩ rfl
  refine ⟨t, ht, fun u husp hustack => ?_⟩
  obtain ⟨r, hr, hret, -⟩ := returnPopsTheTopEntry u
  obtain ⟨hpc, hsp', -, hframe⟩ := hret ⟨s.sp.val, hroom⟩ (by rw [husp, hsp])
  exact ⟨r, hr, by rw [hpc, hustack, htop], Fin.ext hsp', hframe⟩

/-! ### Jumps (R123, R126) -/

/-- The word of the form `op nnn` as R83 writes it, a sum. -/
theorem ofNat_eq_encodeNNN (op : BitVec 4) (nnn : Addr) :
    BitVec.ofNat 16 (op.toNat * 0x1000 + nnn.toNat) = encodeNNN op nnn := by
  apply BitVec.eq_of_toNat_eq
  rw [encodeNNN_toNat, BitVec.toNat_ofNat]
  omega

/-- Settles O24: 0x1000 + nnn is the encoder's word of JP nnn, which the decoder takes back to it. -/
theorem jumpSetsPC : Obligations.JumpSetsPC := by
  intro nnn
  have hword : BitVec.ofNat 16 (0x1000 + nnn.toNat) = encode (.jp nnn) := ofNat_eq_encodeNNN 0x1 nnn
  rw [hword]
  exact ⟨decodeOfEncodeIsTheInstruction (.jp nnn) rfl, fun s => ⟨_, rfl, rfl, s.setPC_unchanged nnn⟩⟩

/-- V[0] + nnn is a value that addr() answers. -/
theorem State.norm_offsetTarget_addrResult (s : State) (nnn : Addr) :
    AddrResult s (s.offsetTarget nnn) (s.norm (s.offsetTarget nnn)) := by
  have hv := (s.getV 0).isLt
  have hn := nnn.isLt
  exact s.norm_addrResult _ (by unfold State.offsetTarget; omega)

/-- Settles O25: Bnnn is one addr() call whose answer goes to PC. -/
theorem jumpWithOffsetAddsV0 : Obligations.JumpWithOffsetAddsV0 := fun nnn s =>
  ⟨_, rfl, s.norm_offsetTarget_addrResult nnn, s.gotoPC_reports _, s.gotoPC_unchanged _⟩

end Sys2Proof.Machine
end

/-! ### Proofs: skips (42_skips.md) -/

section

namespace Sys2Proof.Machine

variable {s : State} {v : Byte}

/-! ### skip() under a condition (R147) -/

/-- skip() is one addr() call on PC + 2 whose answer goes to PC. -/
theorem State.skip_skipped (s : State) : Skipped s s.skip := by
  rw [State.skip]
  refine ⟨?_, s.gotoPC_reports _, s.gotoPC_unchanged _⟩
  rw [State.gotoPC_pc]
  exact s.norm_pc_addrResult (by decide)

/-- A skip under a test c skips where p makes c true, and changes nothing where q makes it false. -/
theorem State.skipIf_follows (s : State) {c : Bool} {p q : Prop} (hp : p → c = true) (hq : q → c = false) :
    (p → Skipped s (s.skipIf c)) ∧ (q → s.skipIf c = s) := by
  constructor
  · intro h
    rw [hp h, State.skipIf_true]
    exact s.skip_skipped
  · intro h
    rw [hq h, State.skipIf_false]

/-- Settles O26: each test is the Boolean form of its condition. -/
theorem registerSkipsFollowTheirCondition : Obligations.RegisterSkipsFollowTheirCondition := fun _ _ _ s =>
  ⟨⟨_, rfl, s.skipIf_follows beq_iff_eq.mpr beq_eq_false_iff_ne.mpr⟩,
    ⟨_, rfl, s.skipIf_follows bne_iff_ne.mpr bne_eq_false_iff_eq.mpr⟩,
    ⟨_, rfl, s.skipIf_follows beq_iff_eq.mpr beq_eq_false_iff_ne.mpr⟩,
    ⟨_, rfl, s.skipIf_follows bne_iff_ne.mpr bne_eq_false_iff_eq.mpr⟩⟩

/-! ### keyPressed (R146, D6) -/

/-- keyPressed reports a number above 15 and nothing else. -/
theorem State.noteKey_keyReported (s : State) (v : Byte) : KeyReported s (s.noteKey v) v := by
  constructor
  · intro hle
    exact if_pos hle
  · intro hgt
    have hraise : s.noteKey v = s.raise (.keyOutOfRange v) := if_neg (by omega)
    rw [hraise]
    exact ⟨rfl, rfl, s.raise_unchanged _⟩

/-- keyPressed answers whether the key is held. -/
theorem State.keyDown_iff : s.keyDown v = true ↔ KeyHeld s v := by
  unfold State.keyDown
  split
  · next hle =>
    constructor
    · intro h
      exact ⟨⟨v.toNat, by omega⟩, rfl, h⟩
    · rintro ⟨k, hk, h⟩
      simpa [← hk] using h
  · next hgt =>
    have hnone : ¬ KeyHeld s v := by
      rintro ⟨k, hk, -⟩
      omega
    exact iff_of_false Bool.false_ne_true hnone

theorem State.keyDown_eq_false_iff : s.keyDown v = false ↔ ¬ KeyHeld s v := by
  rw [← State.keyDown_iff, Bool.not_eq_true]

/-- Settles O27: both instructions report first, and their skip starts from the reported state u. -/
theorem keySkipsFollowTheKey : Obligations.KeySkipsFollowTheKey := by
  intro x s
  refine ⟨s.noteKey (s.getV x), s.noteKey_keyReported _, ⟨_, rfl, ?_⟩, ⟨_, rfl, ?_⟩⟩
  · exact State.skipIf_follows _ State.keyDown_iff.mpr State.keyDown_eq_false_iff.mpr
  · exact State.skipIf_follows _ (fun h => congrArg not (State.keyDown_eq_false_iff.mpr h))
      (fun h => congrArg not (State.keyDown_iff.mpr h))

end Sys2Proof.Machine
end

/-! ### Proofs: arithmetic and logic (43_alu.md) -/

section

namespace Sys2Proof.Machine

variable {s : State} {x : Reg}

/-! ### The computed bytes, as numbers (R161, R166 to R170) -/

theorem flagByte_toNat (b : Bool) : (flagByte b).toNat = if b then 1 else 0 := by
  cases b <;> rfl

theorem sumByte_toNat (a b : Byte) : (sumByte a b).toNat = (a.toNat + b.toNat) % 256 := BitVec.toNat_ofNat _ _

theorem carryFlag_toNat (a b : Byte) : (carryFlag a b).toNat = if a.toNat + b.toNat > 255 then 1 else 0 := by
  simp [carryFlag, sumOf, flagByte_toNat]

theorem greaterFlag_toNat (a b : Byte) : (greaterFlag a b).toNat = if a.toNat > b.toNat then 1 else 0 := by
  simp [greaterFlag, flagByte_toNat]

theorem noBorrowFlag_toNat (a b : Byte) : (noBorrowFlag a b).toNat = if b.toNat ≥ a.toNat then 1 else 0 := by
  simp [noBorrowFlag, flagByte_toNat]

/-- The integer difference narrowed to a byte is the natural one with 256 added, which does not truncate. -/
theorem diffByte_toNat (a b : Byte) : (diffByte a b).toNat = (256 + a.toNat - b.toNat) % 256 := by
  rw [diffByte, BitVec.toNat_ofInt]
  omega

theorem lsbFlag_toNat (a : Byte) : (lsbFlag a).toNat = a.toNat % 2 := by
  rw [lsbFlag, BitVec.toNat_and]
  exact Nat.and_one_is_mod _

/-- The mask commutes with the shift, so the flag is bit 0 of a / 128, which is below 2. -/
theorem msbFlag_toNat (a : Byte) : (msbFlag a).toNat = a.toNat / 128 := by
  have hbit : msbFlag a = lsbFlag (a >>> 7) := BitVec.ushiftRight_and_distrib a 0x80 7
  rw [hbit, lsbFlag_toNat, BitVec.toNat_ushiftRight, Nat.shiftRight_eq_div_pow]
  omega

theorem shrByte_toNat (a : Byte) : (shrByte a).toNat = a.toNat / 2 := by
  rw [shrByte, BitVec.toNat_ushiftRight, Nat.shiftRight_eq_div_pow, Nat.pow_one]

theorem shlByte_toNat (a : Byte) : (shlByte a).toNat = a.toNat * 2 % 256 := by
  rw [shlByte, BitVec.toNat_shiftLeft, Nat.shiftLeft_eq, Nat.pow_one]

/-! ### The registers after a flag and a result (R172, D8) -/

/-- An operand read after the flag write is the flag where it names VF. -/
theorem State.getV_setV_toNat (s : State) (x r : Reg) (b : Byte) :
    ((s.setV x b).getV r).toNat = if r = x then b.toNat else (s.getV r).toNat := by
  rw [State.getV_setV, apply_ite BitVec.toNat]

theorem State.getV_flagThenResult_self (s : State) (x : Reg) (flag : Byte) (result : State → Byte) :
    (s.flagThenResult x flag result).getV x = result (s.setV vF flag) := State.getV_setV_self _ _

/-- The flag survives in VF unless the result replaces it. -/
theorem State.getV_flagThenResult_vF (s : State) (flag : Byte) (result : State → Byte) (hx : x ≠ vF) :
    (s.flagThenResult x flag result).getV vF = flag := by
  rw [State.flagThenResult, State.getV_setV, if_neg hx.symm, State.getV_setV_self]

/-! ### The flag instructions (R166 to R170) and the table of R172 -/

/-- Settles O31: the sum is latched before the flag write, and the flag is its carry. -/
theorem addRegistersWritesSumAndCarry : Obligations.AddRegistersWritesSumAndCarry := by
  intro x y
  have hword : BitVec.ofNat 16 (0x8004 + x.val * 0x100 + y.val * 0x10) = encode (.addReg x y) := ofNat_eq_encodeXYN 0x8 0x4 x y
  refine ⟨hword ▸ decodeOfEncodeIsTheInstruction (.addReg x y) rfl, fun s => ⟨_, rfl, ?_, fun hx => ?_,
    s.flagThenResult_regsUnchanged x _ _, s.flagThenResult_unchanged x _ _⟩⟩
  · rw [State.getV_flagThenResult_self, sumByte_toNat]
  · rw [State.getV_flagThenResult_vF _ _ _ hx, carryFlag_toNat]

/-- Settles O32: the flag compares the old operands, the difference reads them again after the flag write. -/
theorem subtractionsWriteFlagThenDifference : Obligations.SubtractionsWriteFlagThenDifference := by
  intro x y s
  constructor
  · refine ⟨_, rfl, ⟨?_, fun hx => ?_⟩, s.flagThenResult_regsUnchanged x _ _, s.flagThenResult_unchanged x _ _⟩
    · rw [State.getV_flagThenResult_self, diffByte_toNat, State.getV_setV_toNat, State.getV_setV_toNat, greaterFlag_toNat]
    · rw [State.getV_flagThenResult_vF _ _ _ hx, greaterFlag_toNat]
  · refine ⟨_, rfl, ⟨?_, fun hx => ?_⟩, s.flagThenResult_regsUnchanged x _ _, s.flagThenResult_unchanged x _ _⟩
    · rw [State.getV_flagThenResult_self, diffByte_toNat, State.getV_setV_toNat, State.getV_setV_toNat, noBorrowFlag_toNat]
    · rw [State.getV_flagThenResult_vF _ _ _ hx, noBorrowFlag_toNat]

/-- Settles O33: the flag is the bit shifted out, the shift reads V[x] again after the flag write. -/
theorem shiftsWriteFlagThenResult : Obligations.ShiftsWriteFlagThenResult := by
  intro x s
  constructor
  · refine ⟨_, rfl, ⟨?_, fun hx => ?_⟩, s.flagThenResult_regsUnchanged x _ _, s.flagThenResult_unchanged x _ _⟩
    · rw [State.getV_flagThenResult_self, shrByte_toNat, State.getV_setV_toNat, lsbFlag_toNat]
    · rw [State.getV_flagThenResult_vF _ _ _ hx, lsbFlag_toNat]
  · refine ⟨_, rfl, ⟨?_, fun hx => ?_⟩, s.flagThenResult_regsUnchanged x _ _, s.flagThenResult_unchanged x _ _⟩
    · rw [State.getV_flagThenResult_self, shlByte_toNat, State.getV_setV_toNat, msbFlag_toNat]
    · rw [State.getV_flagThenResult_vF _ _ _ hx, msbFlag_toNat]

/-- Settles O34: each cell is O31, O32 or O33 at the operands of its row, where the tests for VF are decided. The hypotheses of a
cell end in the operands x and y, F for VF and r for the other register. -/
theorem flagAliasingTable : Obligations.FlagAliasingTable := by
  intro r s hr
  have hf : (s.getV vF).toNat < 256 := (s.getV vF).isLt
  obtain ⟨addFr, hAddFr, hsumFr, -⟩ := (addRegistersWritesSumAndCarry vF r).2 s
  obtain ⟨addrF, hAddrF, hsumrF, hcarryrF, -⟩ := (addRegistersWritesSumAndCarry r vF).2 s
  obtain ⟨addFF, hAddFF, hsumFF, -⟩ := (addRegistersWritesSumAndCarry vF vF).2 s
  obtain ⟨⟨subFr, hSubFr, ⟨hdiffFr, -⟩, -⟩, ⟨subnFr, hSubnFr, ⟨hndiffFr, -⟩, -⟩⟩ :=
    subtractionsWriteFlagThenDifference vF r s
  obtain ⟨⟨subrF, hSubrF, ⟨hdiffrF, hgtrF⟩, -⟩, ⟨subnrF, hSubnrF, ⟨hndiffrF, hgerF⟩, -⟩⟩ :=
    subtractionsWriteFlagThenDifference r vF s
  obtain ⟨⟨subFF, hSubFF, ⟨hdiffFF, -⟩, -⟩, ⟨subnFF, hSubnFF, ⟨hndiffFF, -⟩, -⟩⟩ :=
    subtractionsWriteFlagThenDifference vF vF s
  obtain ⟨⟨shrF, hShrF, ⟨hhalf, -⟩, -⟩, ⟨shlF, hShlF, ⟨hdouble, -⟩, -⟩⟩ := shiftsWriteFlagThenResult vF s
  simp only [if_true, if_neg hr] at hdiffFr hdiffrF hdiffFF hndiffFr hndiffrF hndiffFF hhalf hdouble
  exact ⟨⟨addFr, hAddFr, hsumFr⟩, ⟨addrF, hAddrF, hsumrF, hcarryrF hr⟩, ⟨addFF, hAddFF, by omega⟩,
    ⟨subFr, hSubFr, hdiffFr⟩, ⟨subrF, hSubrF, hgtrF hr, hdiffrF⟩, ⟨subFF, hSubFF, by omega⟩,
    ⟨shrF, hShrF, by omega⟩,
    ⟨subnFr, hSubnFr, hndiffFr⟩, ⟨subnrF, hSubnrF, hgerF hr, hndiffrF⟩, ⟨subnFF, hSubnFF, by omega⟩,
    ⟨shlF, hShlF, by omega⟩⟩

/-! ### The instructions that write V[x] alone (R160 to R165, R171) -/

/-- The word of the form `op x nn` as R83 writes it, a sum. -/
theorem ofNat_eq_encodeXNN (op : BitVec 4) (x : Reg) (nn : Byte) :
    BitVec.ofNat 16 (op.toNat * 0x1000 + x.val * 0x100 + nn.toNat) = encodeXNN op x nn := by
  apply BitVec.eq_of_toNat_eq
  rw [encodeXNN_toNat, BitVec.toNat_ofNat]
  omega

/-- Settles O28: 0x6000 + x * 0x100 + nn is the encoder's word of LD Vx, nn. -/
theorem loadImmediateSetsTheRegister : Obligations.LoadImmediateSetsTheRegister := by
  intro x nn
  have hword : BitVec.ofNat 16 (0x6000 + x.val * 0x100 + nn.toNat) = encode (.ldImm x nn) := ofNat_eq_encodeXNN 0x6 x nn
  exact ⟨hword ▸ decodeOfEncodeIsTheInstruction (.ldImm x nn) rfl,
    fun s => ⟨_, rfl, s.getV_setV_self x nn, s.setV_regsUnchanged x nn, s.setV_unchanged x nn⟩⟩

/-- Settles O29: one write of V[x] each, the sum narrowed to a byte and the OR read bit by bit. -/
theorem addImmediateAndOrWriteNoFlag : Obligations.AddImmediateAndOrWriteNoFlag := by
  intro x y nn s
  refine ⟨⟨_, rfl, ?_, s.setV_regsUnchanged x _, s.setV_unchanged x _⟩,
    ⟨_, rfl, fun k _ => ?_, s.setV_regsUnchanged x _, s.setV_unchanged x _⟩⟩
  · rw [State.getV_setV_self, sumByte_toNat]
  · rw [State.getV_setV_self, BitVec.getLsbD_or]

/-- Settles O30: the words are the encoder's, and each meaning is one write of V[x]. -/
theorem copyAndXorWorkBitByBit : Obligations.CopyAndXorWorkBitByBit := by
  intro x y
  have hld : BitVec.ofNat 16 (0x8000 + x.val * 0x100 + y.val * 0x10) = encode (.ldReg x y) := ofNat_eq_encodeXYN 0x8 0x0 x y
  have hand : BitVec.ofNat 16 (0x8002 + x.val * 0x100 + y.val * 0x10) = encode (.andReg x y) := ofNat_eq_encodeXYN 0x8 0x2 x y
  have hxor : BitVec.ofNat 16 (0x8003 + x.val * 0x100 + y.val * 0x10) = encode (.xorReg x y) := ofNat_eq_encodeXYN 0x8 0x3 x y
  rw [hld, hand, hxor]
  refine ⟨decodeOfEncodeIsTheInstruction (.ldReg x y) rfl, decodeOfEncodeIsTheInstruction (.andReg x y) rfl,
    decodeOfEncodeIsTheInstruction (.xorReg x y) rfl, fun s =>
      ⟨⟨_, rfl, s.getV_setV_self x _, s.setV_regsUnchanged x _, s.setV_unchanged x _⟩,
        ⟨_, rfl, fun k _ => ?_, s.setV_regsUnchanged x _, s.setV_unchanged x _⟩,
        ⟨_, rfl, fun k _ => ?_, s.setV_regsUnchanged x _, s.setV_unchanged x _⟩⟩⟩
  · rw [State.getV_setV_self, BitVec.getLsbD_and]
  · rw [State.getV_setV_self, BitVec.getLsbD_xor]

/-- The byte the host supplies next is the step's random byte. -/
theorem State.rndByte_of_cons {b : Byte} {l : List Byte} (h : s.rndIn = b :: l) : s.rndByte = b := by
  rw [State.rndByte, h]

/-- Settles O35: rnd is the step's random byte, and the mask clears every bit outside nn. -/
theorem randomByteIsMasked : Obligations.RandomByteIsMasked := by
  intro x nn s
  refine ⟨_, rfl, ⟨s.rndByte, s.getV_setV_self x _, fun _ _ h => State.rndByte_of_cons h⟩, fun k hk => ?_,
    s.setV_regsUnchanged x _, s.setV_unchanged x _⟩
  rw [State.getV_setV_self, BitVec.getLsbD_and, Bool.and_eq_true] at hk
  exact hk.2

end Sys2Proof.Machine
end

/-! ### Proofs: index and memory (44_index_memory.md) -/

section

namespace Sys2Proof.Machine

variable {s : State}

/-! ### The index register (R200 to R202) -/

/-- Settles O36: 0xA000 + nnn is the encoder's word of LD I, nnn, whose meaning is one write of I. -/
theorem loadIndexSetsI : Obligations.LoadIndexSetsI := by
  intro nnn
  have hword : BitVec.ofNat 16 (0xA000 + nnn.toNat) = encode (.ldI nnn) := ofNat_eq_encodeNNN 0xA nnn
  exact ⟨hword ▸ decodeOfEncodeIsTheInstruction (.ldI nnn) rfl, fun s => ⟨_, rfl, rfl, s.setI_unchanged nnn⟩⟩

/-- I + k, for a byte k, is a value that addr() answers. -/
theorem State.norm_indexPlus_addrResult (s : State) {k : Nat} (hk : k ≤ 0xFF) :
    AddrResult s (s.indexPlus k) (s.norm (s.indexPlus k)) := by
  obtain ⟨hlo, hhi⟩ := s.indexPlus_reportable hk
  exact s.norm_addrResult _ (by omega)

/-- One addr() call whose answer goes to I. -/
theorem State.gotoI_reports (s : State) (v : Int) : AddrReports s (s.gotoI v) [v] :=
  AddrReports_congr (s.noteAddr_reports v) (s.gotoI_events v) (s.gotoI_err v)

/-- A glyph address fits 12 bits, so it is exact. -/
theorem glyphAddr_toNat (v : Byte) : (glyphAddr v).toNat = 0x050 + v.toNat * 5 := by
  have hv := v.isLt
  show (BitVec.ofNat 12 (0x050 + v.toNat * 5)).toNat = _
  rw [BitVec.toNat_ofNat]
  omega

/-- Settles O37: Fx1E is one addr() call whose answer goes to I, and Fx29 one write of I. -/
theorem indexArithmetic : Obligations.IndexArithmetic := fun x s =>
  ⟨⟨_, rfl, s.norm_indexPlus_addrResult (Nat.le_of_lt_succ (s.getV x).isLt), s.gotoI_reports _, s.gotoI_unchanged _⟩,
    ⟨_, rfl, glyphAddr_toNat _, s.setI_unchanged _⟩⟩

/-! ### Stores and loads through I (R203 to R205) -/

/-- An access through I starts at I itself. -/
theorem State.indexPlus_zero (s : State) : s.indexPlus 0 = s.i.toNat := by simp [State.indexPlus]

/-- The digits of a byte, as numbers. -/
theorem bcdDigits_toNat (v : Byte) :
    (bcdDigits v).map BitVec.toNat = [v.toNat / 100, v.toNat / 10 % 10, v.toNat % 10] := by
  have hv := v.isLt
  simp [bcdDigits]
  omega

/-- Settles O38: Fx33 is one store of the three digits of V[x]. -/
theorem bcdStoresThreeDigits : Obligations.BcdStoresThreeDigits := by
  intro x s
  have hdigits := bcdDigits_toNat (s.getV x)
  simp only [bcdDigits, List.map_cons, List.cons.injEq] at hdigits
  obtain ⟨hh, hd, hu, -⟩ := hdigits
  have hstores := s.storeBytes_stores (bcdDigits (s.getV x)) (s.indexPlus 0)
  have hreports := s.storeBytes_reports (bcdDigits (s.getV x)) (s.indexPlus 0)
  refine ⟨_, _, _, _, rfl, ?_, ?_, ?_, s.indexPlus_zero ▸ hstores, ?_, s.storeBytes_unchanged _ _⟩
  · rw [hh, hd, hu]
    omega
  · omega
  · omega
  · simpa [State.indexPlus, bcdDigits, List.range_succ] using hreports

/-- Settles O39: Fx55 is one store of the bytes V[0..x]. -/
theorem storeRegistersWritesXPlusOneBytes : Obligations.StoreRegistersWritesXPlusOneBytes := by
  intro x s
  have hlen : ((regsUpTo x).map s.getV).length = x.val + 1 := by simp
  refine ⟨_, _, rfl, hlen, getElem_map_regsUpTo s x, ?_, ?_, s.storeBytes_unchanged _ _⟩
  · rw [s.indexPlus_zero]
    exact s.storeBytes_stores _ _
  · rw [s.indexPlus_zero, ← hlen]
    exact s.storeBytes_reports _ _

/-- The registers V0..Vx after a load, and the others. -/
theorem State.getV_loadRegs_regsUpTo (s : State) (v : Int) (x r : Reg) :
    (s.loadRegs v (regsUpTo x)).getV r = if r ≤ x then s.readByte (s.norm (v + r.val)) else s.getV r := by
  split
  · rename_i hr
    have hlen : r.val < (regsUpTo x).length := by
      rw [regsUpTo_length]
      exact Nat.lt_succ_of_le hr
    have hat : (regsUpTo x)[r.val] = r := Fin.ext (regsUpTo_getElem x r.val hlen)
    have hload := State.getV_loadRegs (regsUpTo x) (regsUpTo_nodup x) s v r.val hlen
    rwa [hat] at hload
  · rename_i hr
    exact State.getV_loadRegs_of_not_mem _ s v r ((mem_regsUpTo x r).not.mpr hr)

/-- Settles O40: Fx65 is one load of V0..Vx. -/
theorem loadRegistersReadsXPlusOneBytes : Obligations.LoadRegistersReadsXPlusOneBytes := by
  intro x s
  refine ⟨_, rfl, fun r => ?_, ?_, s.loadRegs_unchanged _ _⟩
  · rw [s.getV_loadRegs_regsUpTo, s.indexPlus_zero]
  · rw [s.indexPlus_zero, ← regsUpTo_length x]
    exact s.loadRegs_reports _ _

/-! ### Which addresses of a dump coincide (R61, R206; D2) -/

theorem State.norm_natCast_toNat_of_wrap (h : s.cfg.addrPolicy = .wrap) (n : Nat) : (s.norm n).toNat = n % 0x1000 := by
  rw [State.norm, h, normalise_wrap, BitVec.ofInt_natCast, BitVec.toNat_ofNat]

theorem State.norm_natCast_toNat_of_clamp (h : s.cfg.addrPolicy = .clamp) (n : Nat) : (s.norm n).toNat = min n 0xFFF := by
  by_cases hn : n ≤ 0xFFF
  · rw [s.norm_toNat (by omega), Int.toNat_natCast, min_eq_left hn]
  · rw [State.norm, h, normalise, if_neg (by omega), min_eq_right (by omega)]
    exact congrArg BitVec.toNat (if_neg (by omega))

/-- No later byte of an access of x + 1 bytes through I has the address of the k-th. -/
def State.LastAtItsAddress (s : State) (x k : Reg) : Prop :=
  ∀ j : Nat, k.val < j → j ≤ x.val → s.norm (s.indexPlus j) ≠ s.norm (s.indexPlus k)

theorem State.lastAtItsAddress_self (s : State) (x : Reg) : s.LastAtItsAddress x x := by
  intro j hj hjx
  omega

/-- Under wrap no two of at most 16 consecutive addresses coincide. -/
theorem State.lastAtItsAddress_of_wrap (h : s.cfg.addrPolicy = .wrap) (x k : Reg) : s.LastAtItsAddress x k := by
  intro j hj hjx he
  have hx := x.isLt
  have hval := congrArg BitVec.toNat he
  simp only [State.indexPlus, ← Nat.cast_add, State.norm_natCast_toNat_of_wrap h] at hval
  omega

/-- Under clamp no later address comes back below 0xFFF. -/
theorem State.lastAtItsAddress_of_clamp (h : s.cfg.addrPolicy = .clamp) (x k : Reg) (hk : s.i.toNat + k.val < 0xFFF) :
    s.LastAtItsAddress x k := by
  intro j hj hjx he
  have hval := congrArg BitVec.toNat he
  simp only [State.indexPlus, ← Nat.cast_add, State.norm_natCast_toNat_of_clamp h] at hval
  omega

/-- Inside memory no two addresses coincide, under either policy. -/
theorem State.lastAtItsAddress_of_le (x k : Reg) (h : s.i.toNat + x.val ≤ 0xFFF) : s.LastAtItsAddress x k := by
  intro j hj hjx he
  have hval := congrArg BitVec.toNat he
  rw [s.norm_toNat (by unfold State.indexPlus; omega), s.norm_toNat (by unfold State.indexPlus; omega)] at hval
  unfold State.indexPlus at hval
  omega

/-- Under clamp every address from 0xFFF on is 0xFFF, the last one of the access with them. -/
theorem State.norm_indexPlus_of_folded (h : s.cfg.addrPolicy = .clamp) {x k : Reg} (hkx : k ≤ x)
    (hk : 0xFFF ≤ s.i.toNat + k.val) : s.norm (s.indexPlus k) = s.norm (s.indexPlus x) := by
  have hle : k.val ≤ x.val := hkx
  apply BitVec.eq_of_toNat_eq
  simp only [State.indexPlus, ← Nat.cast_add, State.norm_natCast_toNat_of_clamp h]
  omega

/-! ### Dump, then load (R206) -/

/-- The state after Fx55. -/
def State.dump (s : State) (x : Reg) : State := s.storeBytes (s.indexPlus 0) ((regsUpTo x).map s.getV)

theorem exec_ldMemVx (x : Reg) (s : State) : exec (.ldMemVx x) s = .next (s.dump x) := rfl

/-- A dumped register can be read back where no later one was stored over it. -/
theorem State.readByte_dump {x k : Reg} (hkx : k ≤ x) (hlast : s.LastAtItsAddress x k) :
    (s.dump x).readByte (s.norm (s.indexPlus k)) = s.getV k := by
  have hlen : ((regsUpTo x).map s.getV).length = x.val + 1 := by simp
  have hk : k.val < ((regsUpTo x).map s.getV).length := by
    rw [hlen]
    exact Nat.lt_succ_of_le hkx
  obtain ⟨-, hstored⟩ := s.storeBytes_stores ((regsUpTo x).map s.getV) (s.indexPlus 0)
  have hread := hstored k.val hk fun j hkj hj => by
    rw [s.indexPlus_zero]
    exact hlast j hkj (by omega)
  rwa [getElem_map_regsUpTo, s.indexPlus_zero] at hread

/-- Fx65 in a state with the memory, I and parameters of a dump reads each register from where it was dumped. -/
theorem State.getV_loadRegs_dump {u : State} {x k : Reg} (hmem : ∀ a, u.readByte a = (s.dump x).readByte a)
    (hi : u.i = (s.dump x).i) (hcfg : u.cfg = (s.dump x).cfg) (hkx : k ≤ x) :
    (u.loadRegs (u.indexPlus 0) (regsUpTo x)).getV k = (s.dump x).readByte (s.norm (s.indexPlus k)) := by
  have hframe : Unchanged [.memory, .err, .events] s (s.dump x) := s.storeBytes_unchanged _ _
  have hindex : (s.dump x).i = s.i := hframe .index (by decide)
  have hconfig : (s.dump x).cfg = s.cfg := hframe .config (by decide)
  rw [State.getV_loadRegs_regsUpTo, if_pos hkx, hmem, u.indexPlus_zero, hi, hindex, State.norm, hcfg, hconfig]
  rfl

/-- Settles O41: each register is reloaded from its own address, where the last register stored there stands. -/
theorem dumpThenLoadRestoresTheRegisters : Obligations.DumpThenLoadRestoresTheRegisters := by
  intro x s
  refine ⟨_, exec_ldMemVx x s, fun u hmem hi hcfg => ⟨_, rfl, fun h k hkx => ?_, fun hclamp _ k hkx => ?_⟩⟩
  · rw [State.getV_loadRegs_dump hmem hi hcfg hkx]
    rcases h with hwrap | hle
    · exact State.readByte_dump hkx (State.lastAtItsAddress_of_wrap hwrap x k)
    · exact State.readByte_dump hkx (State.lastAtItsAddress_of_le x k hle)
  · rw [State.getV_loadRegs_dump hmem hi hcfg hkx]
    split
    · rename_i hfold
      rw [State.norm_indexPlus_of_folded hclamp hkx hfold]
      exact State.readByte_dump le_rfl (s.lastAtItsAddress_self x)
    · rename_i hfold
      exact State.readByte_dump hkx (State.lastAtItsAddress_of_clamp hclamp x k (by omega))

end Sys2Proof.Machine
end

/-! ### Proofs: timers and keys (45_timers_keys.md) -/

section

namespace Sys2Proof.Machine

variable {s t : State}

/-! ### The delay and sound timers (R220, R222 to R225) -/

/-- The word of the form `op x nn` with its fixed digits summed first, as R83 writes a selector that leaves x free. -/
theorem ofNat_eq_encodeXNN_selector (op : BitVec 4) (x : Reg) (nn : Byte) :
    BitVec.ofNat 16 (op.toNat * 0x1000 + nn.toNat + x.val * 0x100) = encodeXNN op x nn := by
  rw [Nat.add_right_comm]
  exact ofNat_eq_encodeXNN op x nn

/-- Settles O43: the words are the encoder's, Fx07 is one write of V[x] and Fx15 one write of DT. -/
theorem delayTimerIsReadAndSet : Obligations.DelayTimerIsReadAndSet := by
  intro x
  have hread : BitVec.ofNat 16 (0xF007 + x.val * 0x100) = encode (.ldVxDt x) := ofNat_eq_encodeXNN_selector 0xF x 0x07
  have hset : BitVec.ofNat 16 (0xF015 + x.val * 0x100) = encode (.ldDtVx x) := ofNat_eq_encodeXNN_selector 0xF x 0x15
  rw [hread, hset]
  exact ⟨decodeOfEncodeIsTheInstruction (.ldVxDt x) rfl, decodeOfEncodeIsTheInstruction (.ldDtVx x) rfl, fun s =>
    ⟨⟨_, rfl, s.getV_setV_self x _, s.setV_regsUnchanged x _, s.setV_unchanged x _⟩, ⟨_, rfl, rfl, s.setDT_unchanged _⟩⟩⟩

/-- The host hears sound while ST is not 0 (R225). -/
theorem State.hostView_soundActive_iff : s.hostView.soundActive = true ↔ s.st ≠ 0 := bne_iff_ne

/-- Settles O44: Fx18 is one write of ST, and the host reads the level from ST. -/
theorem soundTimerIsSetAndHeard : Obligations.SoundTimerIsSetAndHeard := fun _ s =>
  ⟨_, rfl, rfl, s.setST_unchanged _, State.hostView_soundActive_iff⟩

/-- A countdown is the truncated subtraction of one. -/
theorem countDown_toNat (b : Byte) : (countDown b).toNat = b.toNat - 1 := by
  unfold countDown
  split
  · next hpos => exact BitVec.toNat_sub_of_le (show (1 : Byte) ≤ b from hpos)
  · next hzero => omega

theorem State.tick_unchanged (s : State) : Unchanged [.delay, .sound] s s.tick := by
  intro p hp
  cases p <;> simp [Part.same] at hp ⊢

/-- Settles O47: each timer is one countdown, and TICK writes nothing else. -/
theorem tickCountsBothTimersDown : Obligations.TickCountsBothTimersDown :=
  fun s => ⟨countDown_toNat s.dt, countDown_toNat s.st, s.tick_unchanged⟩

/-! ### The key wait (R221) -/

/-- A held key with none held below it is the one the search finds. -/
theorem State.lowestKey_of_held {k : Fin 16} (hk : s.key[k] = true) (hlow : ∀ j : Fin 16, j < k → s.key[j] = false) :
    s.lowestKey = some k := by
  refine List.find?_eq_some_iff_getElem.mpr ⟨hk, k.val, by simp, by simp, fun j hj => ?_⟩
  have hfree : s.key[j] = false := hlow ⟨j, by omega⟩ hj
  simp [hfree]

/-- PC - 2 is a value that addr() answers. -/
theorem State.norm_rewindTarget_addrResult (s : State) : AddrResult s s.rewindTarget (s.norm s.rewindTarget) := by
  obtain ⟨hlo, hhi⟩ := s.rewindTarget_reportable
  exact s.norm_addrResult _ (by omega)

/-- Settles O45: the search decides the branch, the first clause fixes its key and the second its failure. -/
theorem keyWaitTakesTheLowestKeyOrRewinds : Obligations.KeyWaitTakesTheLowestKeyOrRewinds := by
  intro x s
  cases hfound : s.lowestKey with
  | none =>
    refine ⟨_, exec_ldVxK_of_none x hfound, fun k hk hlow => ?_, fun _ => ?_⟩
    · simp [State.lowestKey_of_held hk hlow] at hfound
    · exact ⟨s.norm_rewindTarget_addrResult, s.gotoPC_reports _, s.gotoPC_unchanged _⟩
  | some m =>
    refine ⟨_, exec_ldVxK_of_some x hfound, fun k hk hlow => ?_, fun hnone => ?_⟩
    · obtain rfl : k = m := Option.some.inj ((State.lowestKey_of_held hk hlow).symm.trans hfound)
      refine ⟨?_, s.setV_regsUnchanged x _, s.setV_unchanged x _⟩
      rw [State.getV_setV_self, BitVec.toNat_ofNat]
      omega
    · simp [State.lowestKey_eq_none.mpr hnone] at hfound

/-- Under wrap the rewind undoes the fetch's advance, at 0xFFE and 0xFFF too. -/
theorem State.afterFetch_norm_rewindTarget (h : s.cfg.addrPolicy = .wrap) :
    s.afterFetch.norm s.afterFetch.rewindTarget = s.pc := by
  have hcfg : s.afterFetch.cfg = s.cfg := s.afterFetch_unchanged .config (by decide)
  have hpc := s.pc.isLt
  apply BitVec.eq_of_toNat_eq
  rw [State.rewindTarget, State.afterFetch_pc, State.norm, State.norm, hcfg, h, normalise_wrap, normalise_wrap,
    BitVec.toNat_ofInt, BitVec.toNat_ofInt]
  omega

/-- A part that ends as it began need not be excepted from a frame. -/
theorem Unchanged.of_same {p : Part} {e : List Part} (h : Unchanged (p :: e) s t) (hp : p.same s t) : Unchanged e s t := by
  intro q hq
  by_cases hqp : q = p
  · exact hqp ▸ hp
  · exact h q (List.not_mem_cons_of_ne_of_not_mem hqp hq)

/-- What the fetch, a write of PC with its report, and the random byte leave unchanged together. -/
theorem State.afterFetch_gotoPC_consumeRnd_unchanged (s : State) (v : Int) :
    Unchanged [.pc, .err, .events, .inputs] s (s.afterFetch.gotoPC v).consumeRnd :=
  ((s.afterFetch_unchanged.trans (s.afterFetch.gotoPC_unchanged v)).mono (by decide)).trans
    ((State.consumeRnd_unchanged _).mono (by decide))

/-- Settles O46: the step is the fetch's advance, the rewind that undoes it, and the random byte. -/
theorem keyWaitReexecutesItself : Obligations.KeyWaitReexecutesItself := by
  intro x s hwrap hd hnone
  have hkeys : s.afterFetch.lowestKey = none :=
    State.lowestKey_eq_none.mpr fun k => (s.afterFetch_unchanged .keys (by decide) k).trans (hnone k)
  have hpc : (s.afterFetch.gotoPC s.afterFetch.rewindTarget).consumeRnd.pc = s.pc := by
    rw [State.consumeRnd_pc, State.gotoPC_pc, State.afterFetch_norm_rewindTarget hwrap]
  exact ⟨_, step_of_exec hd (exec_ldVxK_of_none x hkeys), hpc, (s.afterFetch_gotoPC_consumeRnd_unchanged _).of_same hpc⟩

end Sys2Proof.Machine
end

/-! ### Proofs: the display (46_display.md) -/

section

namespace Sys2Proof.Machine

variable {s u : State} {x y x' y' : Reg} {n : Nat}

/-! ### 00E0 (R240) -/

/-- Settles O48: 00E0 is one clearing of the framebuffer. -/
theorem clearTurnsEveryPixelOff : Obligations.ClearTurnsEveryPixelOff :=
  ⟨decodeOfEncodeIsTheInstruction .cls rfl, fun s => ⟨_, rfl, fun _ _ => State.pixel_clearFB _ _, s.clearFB_unchanged⟩⟩

/-! ### The pixels under a 1 bit (R241, R242) -/

/-- An offset below n from b to a is a - b, if a lies in the n places from b on. -/
theorem exists_mem_range_eq_add_iff {a b n : Nat} {p : Nat → Prop} :
    (∃ k ∈ List.range n, a = b + k ∧ p k) ↔ b ≤ a ∧ a < b + n ∧ p (a - b) := by
  constructor
  · rintro ⟨k, hk, rfl, hp⟩
    have hlt := List.mem_range.mp hk
    exact ⟨by omega, by omega, by rwa [Nat.add_sub_cancel_left]⟩
  · rintro ⟨hle, hlt, hp⟩
    exact ⟨a - b, List.mem_range.mpr (by omega), by omega, hp⟩

/-- What the loops toggle from the origin of Dxyn on is what R242's closed form covers; the reset of VF does not bear on it. -/
theorem State.rowsCover_iff_spriteCovers (r : Fin 32) (c : Fin 64) :
    (s.setV vF 0).rowsCover (s.originCol x) (s.originRow y) (List.range n) r c ↔ s.spriteCovers x y n r c := by
  simp only [State.rowsCover, rowCovers, exists_mem_range_eq_add_iff]
  exact Iff.rfl

/-- The covered pixels depend on the origin, I, the bytes of memory and the parameters alone. -/
theorem State.spriteCovers_congr (hmem : ∀ a, u.readByte a = s.readByte a) (hi : u.i = s.i) (hcfg : u.cfg = s.cfg)
    (hx : (u.getV x').toNat % 64 = (s.getV x).toNat % 64) (hy : (u.getV y').toNat % 32 = (s.getV y).toNat % 32)
    (r : Fin 32) (c : Fin 64) : u.spriteCovers x' y' n r c ↔ s.spriteCovers x y n r c := by
  simp only [State.spriteCovers, State.norm, hmem, hi, hcfg, hx, hy]

/-! ### The reports of the rows (R242; D9) -/

theorem State.drawCols_indexPlus (s : State) (r : Fin 32) (x0 : Nat) (b : Byte) (cols : List Nat) :
    (s.drawCols r x0 b cols).indexPlus = s.indexPlus := by
  rw [State.drawCols_eq]
  rfl

theorem State.noteAddr_indexPlus (s : State) (v : Int) : (s.noteAddr v).indexPlus = s.indexPlus := by
  funext k
  rw [State.indexPlus, State.indexPlus, State.noteAddr_i]

theorem State.noteAddr_drawCols_reports (s : State) (v : Int) (r : Fin 32) (x0 : Nat) (b : Byte) (cols : List Nat) :
    AddrReports s ((s.noteAddr v).drawCols r x0 b cols) [v] :=
  AddrReports_congr (s.noteAddr_reports v) (by rw [State.drawCols_eq]) (by rw [State.drawCols_eq])

/-- The row loop reports the address of each row up to the first one below the bottom edge. -/
theorem State.drawRows_reports (x0 y0 : Nat) (rows : List Nat) : ∀ s : State,
    AddrReports s (s.drawRows x0 y0 rows) ((rows.takeWhile (fun row => y0 + row < 32)).map s.indexPlus) := by
  induction rows with
  | nil => exact AddrReports_nil
  | cons row rest ih =>
    intro s
    rw [State.drawRows]
    split
    · next hin =>
      have hrest := ih ((s.noteAddr (s.indexPlus row)).drawCols ⟨y0 + row, hin⟩ x0
        (s.readByte (s.norm (s.indexPlus row))) (List.range 8))
      rw [State.drawCols_indexPlus, State.noteAddr_indexPlus] at hrest
      rw [List.takeWhile_cons_of_pos (by simpa using hin)]
      exact AddrReports_append (s.noteAddr_drawCols_reports _ _ _ _ _) hrest
    · next hout =>
      rw [List.takeWhile_cons_of_neg (by simpa using hout)]
      exact AddrReports_nil s

/-- Of the first n numbers, those that stay below m when added to y0 are the first m - y0. -/
theorem takeWhile_range_add_lt (y0 m n : Nat) :
    (List.range n).takeWhile (fun row => y0 + row < m) = List.range (min n (m - y0)) := by
  induction n with
  | zero => simp
  | succ n ih =>
    rw [List.range_succ, List.takeWhile_append, ih, List.length_range, List.length_range]
    by_cases hin : y0 + n < m
    · rw [if_pos (by omega), List.takeWhile_cons_of_pos (by simpa using hin), List.takeWhile_nil, ← List.range_succ,
        min_eq_left (by omega)]
    · split
      · rw [List.takeWhile_cons_of_neg (by simpa using hin), List.append_nil]
        congr 1
        omega
      · congr 1
        omega

/-! ### Dxyn (R242, R243) -/

/-- Settles O49: the two loops' closed forms, from the origin that is read before VF is reset. -/
theorem drawTogglesExactlyTheSpriteBits : Obligations.DrawTogglesExactlyTheSpriteBits := by
  intro x y n s
  obtain ⟨hpix, hhit, hmiss⟩ := State.drawRows_spec (s.originCol x) (s.originRow y) (List.range n) List.pairwise_lt_range
    (s.setV vF 0)
  have hreports := State.drawRows_reports (s.originCol x) (s.originRow y) (List.range n) (s.setV vF 0)
  rw [takeWhile_range_add_lt] at hreports
  simp only [State.rowsCover_iff_spriteCovers, State.getV_setV_self, State.setV_pixel] at hpix hhit hmiss
  exact ⟨_, rfl, fun r c => (hpix r c).1, fun r c => (hpix r c).2, hhit, hmiss, s.setV_drawRows_regsUnchanged _ _ _,
    hreports, s.setV_drawRows_unchanged _ _ _⟩

/-- Settles O50: both draws cover the same pixels, so each is toggled twice or not at all. -/
theorem drawTwiceRestoresTheFramebuffer : Obligations.DrawTwiceRestoresTheFramebuffer := by
  intro x y n s
  obtain ⟨t, ht, hon, hoff, -, -, -, -, hframe⟩ := drawTogglesExactlyTheSpriteBits x y n s
  refine ⟨t, ht, fun u x' y' hpix hmem hi hcfg hx hy => ?_⟩
  obtain ⟨v, hv, hon', hoff', hhit, hmiss, -⟩ := drawTogglesExactlyTheSpriteBits x' y' n u
  have hcovers : ∀ r c, u.spriteCovers x' y' n r c ↔ s.spriteCovers x y n r c :=
    State.spriteCovers_congr (fun a => (hmem a).trans (hframe .memory (by decide) a))
      (hi.trans (hframe .index (by decide))) (hcfg.trans (hframe .config (by decide))) hx hy
  simp only [hcovers, hpix] at hon' hoff' hhit hmiss
  refine ⟨v, hv, fun r c => ?_, ⟨fun hvf => ?_, hhit⟩⟩
  · by_cases hc : s.spriteCovers x y n r c
    · rw [hon' r c hc, hon r c hc, Bool.not_not]
    · rw [hoff' r c hc, hoff r c hc]
  · by_contra hnone
    rw [hmiss hnone] at hvf
    exact absurd hvf (by decide)

end Sys2Proof.Machine
end

/-! ### Proofs: events and ERR (60_exceptions.md) -/

section

namespace Sys2Proof.Machine

variable {s t u : State} {vs : List Int}

/-! ### Operations that append events and record them in ERR (R260, R263, R264) -/

/-- From s to t some events were raised: they stand at the end of the event list, and their bits are added to ERR. -/
def AppendsEvents (s t : State) : Prop :=
  ∃ es : List Event, t.events = s.events ++ es ∧ t.err = es.foldl (fun e ev => e ||| ev.kind.bit) s.err

/-- Nothing is raised where neither the event list nor ERR changes. -/
theorem AppendsEvents.of_eq (hevents : t.events = s.events) (herr : t.err = s.err) : AppendsEvents s t :=
  ⟨[], hevents.trans (List.append_nil _).symm, herr⟩

/-- What is raised first stands first. -/
theorem AppendsEvents.trans (h : AppendsEvents s t) (k : AppendsEvents t u) : AppendsEvents s u := by
  obtain ⟨es, hevents, herr⟩ := h
  obtain ⟨fs, kevents, kerr⟩ := k
  exact ⟨es ++ fs, by rw [kevents, hevents, List.append_assoc], by rw [kerr, herr, List.foldl_append]⟩

theorem AppendsEvents.consumeRnd (h : AppendsEvents s t) : AppendsEvents s t.consumeRnd := h

theorem State.raise_appendsEvents (s : State) (e : Event) : AppendsEvents s (s.raise e) := ⟨[e], rfl, rfl⟩

/-- However many AddrOutOfRange events a run of addr() calls raises, together they set bit 2 or nothing. -/
theorem foldl_bit_addrOutOfRange (vs : List Int) : ∀ err : BitVec 4,
    ((vs.filter (fun v => decide (¬ inRange v))).map Event.addrOutOfRange).foldl (fun e ev => e ||| ev.kind.bit) err =
      if ∀ v ∈ vs, inRange v then err else err ||| 0b0100 := by
  induction vs with
  | nil => intro err; simp
  | cons v rest ih =>
    intro err
    by_cases hv : inRange v
    · have hall : (∀ w ∈ v :: rest, inRange w) ↔ ∀ w ∈ rest, inRange w := List.forall_mem_cons.trans (and_iff_right hv)
      rw [List.filter_cons_of_neg (by simpa using hv), ih]
      simp only [hall]
    · have hbit : (Event.addrOutOfRange v).kind.bit = 0b0100 := rfl
      rw [List.filter_cons_of_pos (by simpa only [decide_eq_true_eq] using hv), List.map_cons, List.foldl_cons, ih, hbit,
        BitVec.or_assoc, BitVec.or_self, ite_self, if_neg fun hall => hv (hall v List.mem_cons_self)]

/-- A run of addr() calls: every use of addr() by the fetch or an instruction is one. -/
theorem AddrReports.appendsEvents (h : AddrReports s t vs) : AppendsEvents s t := by
  obtain ⟨hevents, herr⟩ := h
  exact ⟨_, hevents, herr.trans (foldl_bit_addrOutOfRange vs s.err).symm⟩

theorem State.noteKey_appendsEvents (s : State) (v : Byte) : AppendsEvents s (s.noteKey v) := by
  unfold State.noteKey
  split
  · exact .of_eq rfl rfl
  · exact s.raise_appendsEvents _

theorem State.skipIf_appendsEvents (s : State) (c : Bool) : AppendsEvents s (s.skipIf c) := by
  cases c with
  | false => exact .of_eq rfl rfl
  | true => exact (s.gotoPC_reports _).appendsEvents

/-! ### Instructions and the step -/

/-- An instruction that is not tabled to write ERR or the event list raises nothing. -/
theorem exec_appendsEvents_of_not_written {i : Instr} (hevents : Part.events ∉ writeParts i) (herr : Part.err ∉ writeParts i)
    (s : State) : ∃ t, exec i s = .next t ∧ AppendsEvents s t := by
  obtain ⟨t, ht, hframe, -⟩ := exec_frame i s
  exact ⟨t, ht, .of_eq (hframe .events hevents) (hframe .err herr)⟩

/-- Every meaning raises its events through the shared operations, the rest by its frame none. -/
theorem exec_appendsEvents (i : Instr) (s : State) : ∃ t, exec i s = .next t ∧ AppendsEvents s t := by
  cases i with
  | ret =>
    rcases Nat.eq_zero_or_pos s.sp.val with hsp | hsp
    · exact ⟨_, exec_ret_of_empty hsp, s.raise_appendsEvents _⟩
    · exact ⟨_, exec_ret_of_pos hsp, .of_eq rfl rfl⟩
  | call nnn =>
    rcases s.sp_eq_full_or_lt with hsp | hsp
    · exact ⟨_, exec_call_of_full nnn hsp, s.raise_appendsEvents _⟩
    · exact ⟨_, exec_call_of_lt nnn hsp, .of_eq rfl rfl⟩
  | seImm _ _ | sneImm _ _ | seReg _ _ | sneReg _ _ => exact ⟨_, rfl, s.skipIf_appendsEvents _⟩
  | skp _ | sknp _ => exact ⟨_, rfl, (s.noteKey_appendsEvents _).trans (State.skipIf_appendsEvents _ _)⟩
  | jpV0 _ => exact ⟨_, rfl, (s.gotoPC_reports _).appendsEvents⟩
  | ldVxK x =>
    cases hk : s.lowestKey with
    | none => exact ⟨_, exec_ldVxK_of_none x hk, (s.gotoPC_reports _).appendsEvents⟩
    | some k => exact ⟨_, exec_ldVxK_of_some x hk, .of_eq rfl rfl⟩
  | addIVx _ => exact ⟨_, rfl, (s.gotoI_reports _).appendsEvents⟩
  | drw _ _ _ => exact ⟨_, rfl, (State.drawRows_reports _ _ _ (s.setV vF 0)).appendsEvents⟩
  | ldBVx _ | ldMemVx _ => exact ⟨_, rfl, (State.storeBytes_reports _ s _).appendsEvents⟩
  | ldVxMem _ => exact ⟨_, rfl, (State.loadRegs_reports _ s _).appendsEvents⟩
  | cls | jp _ | ldImm _ _ | addImm _ _ | ldReg _ _ | orReg _ _ | andReg _ _ | xorReg _ _ | addReg _ _ | sub _ _ | shr _
  | subn _ _ | shl _ | ldI _ | rnd _ _ | ldVxDt _ | ldDtVx _ | ldStVx _ | ldFVx _ =>
    exact exec_appendsEvents_of_not_written (by simp [writeParts]) (by simp [writeParts]) s

/-- Settles O19: each meaning's events come from the operations that raise them, one after the other. -/
theorem handlersOnlyAppendEvents : Obligations.HandlersOnlyAppendEvents := by
  intro i s
  obtain ⟨t, ht, es, hes⟩ := exec_appendsEvents i s
  exact ⟨t, es, ht, hes⟩

/-- A step starts from an empty event list and raises what its fetch raises, then what its instruction raises. -/
theorem step_appendsEvents (s : State) : ∃ t, step s = .next t ∧ AppendsEvents { s with events := [] } t := by
  have hfetch := s.afterFetch_reports.appendsEvents
  cases hd : decode s.fetchWord with
  | nop w => exact ⟨_, step_of_nop hd, hfetch.consumeRnd⟩
  | instr i =>
    obtain ⟨u, hu, hexec⟩ := exec_appendsEvents i s.afterFetch
    exact ⟨_, step_of_exec hd hu, (hfetch.trans hexec).consumeRnd⟩

/-- Settles O18: from an empty list on, the events appended are the whole list. -/
theorem errRecordsExactlyTheEventsRaised : Obligations.ErrRecordsExactlyTheEventsRaised := by
  intro s
  obtain ⟨t, ht, es, hevents, herr⟩ := step_appendsEvents s
  obtain rfl : t.events = es := hevents
  exact ⟨t, ht, herr⟩

end Sys2Proof.Machine
end

/-! ### Proofs: reset, load, the boot order and the end of a run (70_reset_and_hazards.md) -/

section

namespace Sys2Proof.Machine

variable {s t : State} {vs : List Int} {v : Int}

/-! ### The end of a run (R302) -/

/-- addr() calls on values in range report nothing. -/
theorem AddrReports.of_forall_inRange (h : AddrReports s t vs) (hin : ∀ v ∈ vs, inRange v) :
    t.events = s.events ∧ t.err = s.err := by
  obtain ⟨hevents, herr⟩ := h
  have hnone : vs.filter (fun v => decide (¬ inRange v)) = [] :=
    List.filter_eq_nil_iff.mpr fun v hv => by simpa only [decide_eq_true_eq, not_not] using hin v hv
  exact ⟨by rw [hevents, hnone, List.map_nil, List.append_nil], herr.trans (if_pos hin)⟩

/-- One addr() call on a value out of range is enough for an event that names the value, and for bit 2 of ERR. -/
theorem AddrReports.of_mem_not_inRange (h : AddrReports s t vs) (hv : v ∈ vs) (hout : ¬ inRange v) :
    .addrOutOfRange v ∈ t.events ∧ t.err = s.err ||| 0b0100 := by
  obtain ⟨hevents, herr⟩ := h
  have hlisted : v ∈ vs.filter (fun v => decide (¬ inRange v)) := List.mem_filter.mpr ⟨hv, decide_eq_true hout⟩
  exact ⟨hevents ▸ List.mem_append_right _ (List.mem_map_of_mem hlisted), herr.trans (if_neg fun hin => hout (hin v hv))⟩

/-- The word at PC is read from PC, memory and the address policy alone (R101). -/
theorem Unchanged.fetchWord {e : List Part} (h : Unchanged e s t) (hpc : .pc ∉ e) (hmem : .memory ∉ e)
    (hcfg : .config ∉ e) : t.fetchWord = s.fetchWord := by
  have hsamePC : t.pc = s.pc := h .pc hpc
  have hsameMem : ∀ a : Addr, t.readByte a = s.readByte a := h .memory hmem
  have hsameCfg : t.cfg = s.cfg := h .config hcfg
  simp only [State.fetchWord, State.norm, hsamePC, hsameMem, hsameCfg]

/-- The state a jump to a leaves: the fetch, the write of PC, the random byte. -/
def State.afterJump (s : State) (a : Addr) : State := (s.afterFetch.setPC a).consumeRnd

@[simp] theorem State.afterJump_pc (s : State) (a : Addr) : (s.afterJump a).pc = a := by
  rw [State.afterJump, State.consumeRnd_pc, State.setPC_pc]

@[simp] theorem State.afterJump_events (s : State) (a : Addr) : (s.afterJump a).events = s.afterFetch.events := by
  rw [State.afterJump, State.consumeRnd_events, State.setPC_events]

@[simp] theorem State.afterJump_err (s : State) (a : Addr) : (s.afterJump a).err = s.afterFetch.err := by
  rw [State.afterJump, State.consumeRnd_err, State.setPC_err]

/-- At the end of a run the step is the jump to its own address. -/
theorem State.atEnd.step {a : Addr} (h : s.atEnd a) : step s = .next (s.afterJump a) := by
  obtain ⟨-, hword⟩ := h
  have hdecode : decode s.fetchWord = .instr (.jp a) := hword ▸ decodeOfEncodeIsTheInstruction (.jp a) rfl
  exact step_of_exec hdecode rfl

/-- A jump reports what its fetch reports. -/
theorem State.afterJump_reports (s : State) (a : Addr) :
    AddrReports { s with events := [] } (s.afterJump a) [(s.pc.toNat : Int) + 1, (s.pc.toNat : Int) + 2] :=
  AddrReports_congr s.afterFetch_reports (s.afterJump_events a) (s.afterJump_err a)

/-- A jump to its own address takes PC back, so only reports and the random byte remain. -/
theorem State.afterJump_self_unchanged (s : State) : Unchanged [.err, .events, .inputs] s (s.afterJump s.pc) := by
  have hjump : Unchanged [.pc, .err, .events] s (s.afterFetch.setPC s.pc) :=
    s.afterFetch_unchanged.trans ((State.setPC_unchanged _ _).mono (by decide))
  have hback : Unchanged [.err, .events] s (s.afterFetch.setPC s.pc) := hjump.of_same (State.setPC_pc _ _)
  exact (hback.mono (by decide)).trans ((State.consumeRnd_unchanged _).mono (by decide))

/-- Settles O56: the step jumps back to the word it fetched; the fetch's advance, in range up to 0xFFD, is all that reports. -/
theorem selfJumpIsTheEndOfTheRun : Obligations.SelfJumpIsTheEndOfTheRun := by
  intro s a hend
  have hstep := hend.step
  obtain ⟨rfl, hword⟩ := hend
  have hframe := s.afterJump_self_unchanged
  have hreports := s.afterJump_reports s.pc
  have hword' : (s.afterJump s.pc).fetchWord = s.fetchWord := hframe.fetchWord (by decide) (by decide) (by decide)
  refine ⟨_, hstep, ⟨s.afterJump_pc _, hword'.trans hword⟩, fun hlow => ?_, fun hhigh => ?_⟩
  · have hin : ∀ v ∈ [(s.pc.toNat : Int) + 1, (s.pc.toNat : Int) + 2], inRange v := by
      intro v hv
      rcases List.mem_pair.mp hv with rfl | rfl <;> omega
    obtain ⟨hevents, herr⟩ := hreports.of_forall_inRange hin
    exact ⟨hevents, hframe.of_same herr⟩
  · obtain ⟨hevent, herr⟩ := hreports.of_mem_not_inRange (v := (s.pc.toNat : Int) + 2) (by simp) (by omega)
    exact ⟨List.ne_nil_of_mem hevent, herr, hframe⟩

/-! ### LOAD (R292) -/

theorem State.writeByte_unchanged (s : State) (a : Addr) (b : Byte) : Unchanged [.memory] s (s.writeByte a b) := by
  intro p hp
  cases p <;> simp [Part.same] at hp ⊢

theorem State.copyBytes_unchanged (bs : List Byte) : ∀ (s : State) (a : Nat), Unchanged [.memory] s (s.copyBytes a bs) := by
  induction bs with
  | nil => exact fun s _ => Unchanged.refl _ s
  | cons b rest ih => exact fun s a => (s.writeByte_unchanged _ b).trans (ih _ (a + 1))

/-- A byte outside the copy is as before. -/
theorem State.readByte_copyBytes_of_outside (bs : List Byte) : ∀ (s : State) (a : Nat) (q : Addr), a + bs.length ≤ 0x1000 →
    q.toNat < a ∨ a + bs.length ≤ q.toNat → (s.copyBytes a bs).readByte q = s.readByte q := by
  induction bs with
  | nil => intro s a q _ _; rfl
  | cons b rest ih =>
    intro s a q hfit hout
    rw [List.length_cons] at hfit hout
    have hne : q ≠ BitVec.ofNat 12 a := by
      rintro rfl
      rw [BitVec.toNat_ofNat] at hout
      omega
    rw [State.copyBytes, ih _ _ _ (by omega) (by omega), State.readByte_writeByte_ne hne]

/-- A byte inside the copy is the one copied there: the first is written now and not again, the rest later. -/
theorem State.readByte_copyBytes (bs : List Byte) : ∀ (s : State) (a : Nat) (q : Addr), a + bs.length ≤ 0x1000 →
    (h : a ≤ q.toNat ∧ q.toNat < a + bs.length) → (s.copyBytes a bs).readByte q = bs[q.toNat - a] := by
  induction bs with
  | nil => intro s a q _ h; rw [List.length_nil] at h; omega
  | cons b rest ih =>
    intro s a q hfit h
    rw [List.length_cons] at hfit h
    rw [State.copyBytes]
    rcases Nat.eq_or_lt_of_le h.1 with rfl | hlt
    · rw [State.readByte_copyBytes_of_outside _ _ _ _ (by omega) (by omega), BitVec.ofNat_toNat, BitVec.setWidth_eq,
        State.readByte_writeByte_self]
      simp
    · have hindex : q.toNat - a = (q.toNat - (a + 1)) + 1 := by omega
      rw [ih _ _ _ (by omega) (by omega)]
      simp only [hindex, List.getElem_cons_succ]

theorem State.load_of_empty {bytes : List Byte} (h : bytes.length = 0) : s.load bytes = (.sourceEmpty, s) := if_pos h

theorem State.load_of_too_large {bytes : List Byte} (h : Config.progMax < bytes.length) :
    s.load bytes = (.programTooLarge, s) := by
  rw [State.load, if_neg (by omega), if_pos h]

theorem State.load_of_fits {bytes : List Byte} (h : 1 ≤ bytes.length ∧ bytes.length ≤ Config.progMax) :
    s.load bytes = (.ok, s.copyBytes Config.progBase bytes) := by
  rw [State.load, if_neg (by omega), if_neg (by omega)]

/-- Settles O58: LOAD is one copy to 0x200, which 3584 bytes fill up to 0xFFF, or nothing. -/
theorem loadCopiesTheProgramOrNothing : Obligations.LoadCopiesTheProgramOrNothing := by
  refine fun s bytes => ⟨State.load_of_empty, State.load_of_too_large, fun hfits => ?_⟩
  have hroom : 0x200 + bytes.length ≤ 0x1000 := by omega
  exact ⟨_, State.load_of_fits hfits, State.copyBytes_unchanged bytes s _,
    fun a hout => State.readByte_copyBytes_of_outside bytes s 0x200 a hroom hout,
    fun a hin => State.readByte_copyBytes bytes s 0x200 a hroom hin⟩

/-! ### The boot order (R291, R295) -/

/-- The operations a session admits (R295). -/
def Session.Admits (h : Session) (op : HostOp) : Prop :=
  op.kind = .reset ∨ (op.kind = .load ∧ h.phase = .ready) ∨ (op.kind ≠ .load ∧ h.phase = .running)

theorem HostOp.kind_eq_reset {op : HostOp} : op.kind = .reset ↔ op = .reset := by
  cases op <;> simp [HostOp.kind]

theorem HostOp.kind_eq_load {op : HostOp} : op.kind = .load ↔ ∃ bytes, op = .load bytes := by
  cases op <;> simp [HostOp.kind]

theorem Session.phase_eq_ready {h : Session} : h.phase = .ready ↔ ∃ s, h = .ready s := by
  cases h <;> simp [Session.phase]

theorem Session.phase_eq_running {h : Session} : h.phase = .running ↔ ∃ s, h = .running s := by
  cases h <;> simp [Session.phase]

/-- RESET in every phase. -/
theorem Session.perform_reset (h : Session) : ∃ t, h.perform .reset = .next (.nothing, .ready t) := by
  cases h with
  | beforeReset _ | ready _ | failed _ | running _ => exact ⟨_, rfl⟩

/-- LOAD after RESET: its result decides the phase. -/
theorem Session.perform_load_ready (s : State) (bytes : List Byte) : ∃ r k,
    (Session.ready s).perform (.load bytes) = .next (.loaded r, k) ∧ k.phase = if r = .ok then .running else .failed := by
  show ∃ r k, Session.performLoad bytes (.ready s) = .next (.loaded r, k) ∧ _
  rw [Session.performLoad]
  obtain ⟨r, t⟩ := s.load bytes
  cases r with
  | ok | programTooLarge | sourceEmpty => exact ⟨_, _, rfl, rfl⟩

/-- SET_KEYS, STEP and TICK keep a running session running; STEP because every step answers a next state (R107). -/
theorem Session.perform_running (s : State) {op : HostOp} (hreset : op.kind ≠ .reset) (hload : op.kind ≠ .load) :
    ∃ r t, (Session.running s).perform op = .next (r, .running t) := by
  cases op with
  | reset => exact absurd rfl hreset
  | load _ => exact absurd rfl hload
  | setKeys _ | tick => exact ⟨_, _, rfl⟩
  | step rnd =>
    obtain ⟨t, ht⟩ := step_answers_next { s with rndIn := rnd :: s.rndIn }
    exact ⟨_, t, Session.perform_step_running ht⟩

/-- An operation that is not admitted is refused by name. -/
theorem Session.perform_of_not_admits {h : Session} {op : HostOp} (hno : ¬ h.Admits op) :
    h.perform op = .refused (.notAdmitted h.phase op.kind) := by
  cases op with
  | reset => exact absurd (.inl rfl) hno
  | load _ =>
    cases h with
    | ready _ => exact absurd (.inr (.inl ⟨rfl, rfl⟩)) hno
    | beforeReset _ | failed _ | running _ => rfl
  | setKeys _ | step _ | tick =>
    cases h with
    | running _ => exact absurd (.inr (.inr ⟨nofun, rfl⟩)) hno
    | beforeReset _ | ready _ | failed _ => rfl

/-- Settles O59: RESET in every phase, LOAD in the ready phase, the others in the running phase; the rest is refused. -/
theorem hostOperationsFollowTheBootOrder : Obligations.HostOperationsFollowTheBootOrder := by
  refine fun op h => ⟨fun hadmits => ?_, Session.perform_of_not_admits⟩
  by_cases hreset : op.kind = .reset
  · obtain rfl := HostOp.kind_eq_reset.mp hreset
    obtain ⟨t, ht⟩ := h.perform_reset
    exact ⟨_, _, ht, fun _ => rfl, nofun, fun hother => absurd hreset hother.1⟩
  · rcases hadmits.resolve_left hreset with ⟨hload, hready⟩ | ⟨hload, hrunning⟩
    · obtain ⟨bytes, rfl⟩ := HostOp.kind_eq_load.mp hload
      obtain ⟨s, rfl⟩ := Session.phase_eq_ready.mp hready
      obtain ⟨r, k, hk, hphase⟩ := Session.perform_load_ready s bytes
      exact ⟨_, k, hk, nofun, fun _ => by simpa using hphase, fun hother => absurd hload hother.2⟩
    · obtain ⟨s, rfl⟩ := Session.phase_eq_running.mp hrunning
      obtain ⟨r, t, ht⟩ := Session.perform_running s hreset hload
      exact ⟨r, _, ht, fun heq => absurd heq hreset, fun heq => absurd heq hload, fun _ => rfl⟩

end Sys2Proof.Machine
end
